-- ==== Sys2Proof/Word.lean ====
section
/-! DEFINITION. The two plain word types of the core: a byte of IN or OUT, and a host register. -/

namespace Sys2Proof

/-- One byte of IN or OUT (20 R52: every access of the core is a single 8-bit byte). -/
abbrev Byte := BitVec 8

/-- One host register, position or counter (00 R7: `LEN_W` is 32 bits). -/
abbrev Word := BitVec 32

end Sys2Proof
end

