-- ==== Sys2Proof/Config.lean ====
section
/-! DEFINITION. The constants of 00 R6 under the spec's names, and the free values: the values the spec leaves
open (93 "any value"), which no proof can know. -/

namespace Sys2Proof.Config

/-- 00 R6 `NSYM`: the symbol alphabet. -/
abbrev nsym : Nat := 512
/-- 00 R6 `NLIT`: symbols below this one are literals. -/
abbrev nlit : Nat := 256
/-- 00 R6 `MAXLEN`: the largest code length. -/
abbrev maxLen : Nat := 15
/-- 00 R6 `TBITS`: the width of the decode window. -/
abbrev tbits : Nat := 15
/-- 00 R6 `TSIZE`: the number of entries of TAB. -/
abbrev tsize : Nat := 32768
/-- 00 R6 `HDR_BYTES`: the bytes of a chunk header. -/
abbrev hdrBytes : Nat := 256
/-- 00 R6 `CHUNK_OUT`: the most output bytes a chunk is bounded to. -/
abbrev chunkOut : Nat := 65536
/-- 00 R6 `MIN_MATCH`: what is added to `lenSlot` and to `LEN16`. -/
abbrev minMatch : Nat := 3
/-- 00 R6 `EXT8_BASE`: what is added to `LEN8`. -/
abbrev ext8Base : Nat := 18
/-- 00 R6 `EXT8_ESC`: the value of `LEN8` that calls for `LEN16`. -/
abbrev ext8Esc : Nat := 255

/-- FREE VALUE (log 5): the n-th 32-bit value the spec leaves open (93 U3, U5, U6). Nothing constrains it. -/
opaque freeWord : Nat → BitVec 32

/-- FREE VALUE (log 5): the byte the n-th draw gives for an address of OUT (93 U4, U5, U6, U7). Nothing constrains it. -/
opaque freeByte : Nat → Nat → BitVec 8

end Sys2Proof.Config
end

