-- ==== Sys2Proof/Machine/State.lean ====
section
/-! DEFINITION. All the state of the block as plain data (10_state.md), the two ways a step may stop short, and the
state after reset (10 R36, 70 R230). -/

namespace Sys2Proof.Machine

/-- A memory or register file of `w`-bit cells: the listed cells, addresses strictly rising, none of them 0. An address
that is not listed reads 0 (log 4, log 14). For `w = 8` a cell is a `Host.Cell`. -/
structure Memory (w : Nat) where
  cells : List (Nat × BitVec w)
  deriving DecidableEq, Repr

/-- `STATUS.STATE` (10 R23, 60 R201). The codes 5 to 7 are no values of this type (93 U9). -/
inductive JobState where
  | idle | busy | complete | truncated | invalidInput
  deriving DecidableEq, Repr

/-- `STATUS.STOP_REASON`: why a job ended (60 R200). -/
inductive StopReason where
  | none | headerShort | bitsSymbol | bitsLen8 | bitsLen16 | bitsOffset | corruptBackref | invalidInput
  deriving DecidableEq, Repr

/-- `PHASE` (10 R35). -/
inductive Phase where
  | idle | busy | done
  deriving DecidableEq, Repr

/-- Where in the loops of 42 R140 a running job stands (log 15): at the top of a chunk pass (R143) or at the condition of
the symbol loop (R149). -/
inductive JobPoint where
  | chunkPass | symbolLoop
  deriving DecidableEq, Repr

/-- The open parameters `REG_BASE`, `IN_BASE` and `OUT_BASE` (00 R7): where the host finds the registers, IN and OUT. -/
structure Placement where
  regBase : Nat
  inBase : Nat
  outBase : Nat
  deriving DecidableEq, Repr

/-- What the outside does next (10 R20, R37; 70 R230, R233). Addresses are the host's. -/
inductive HostEvent where
  /-- No access reaches the block: the core performs its next operation, if it has one. -/
  | coreTurn
  /-- A register read of `bytes` bytes. -/
  | regRead (addr bytes : Nat)
  /-- A register write of `bytes` bytes. -/
  | regWrite (addr bytes : Nat) (value : BitVec 32)
  /-- A write of one byte of IN. -/
  | inWrite (addr : Nat) (value : BitVec 8)
  /-- A read of one byte of OUT. -/
  | outRead (addr : Nat)
  /-- A write of one byte of OUT's storage. -/
  | outWrite (addr : Nat) (value : BitVec 8)
  /-- The platform's reset (70 R230). -/
  | reset
  deriving DecidableEq, Repr

/-- Everything the spec gives the machine, and the model's own fields at the end. -/
structure State where
  /-- STATUS bits 2:0 (10 R23). -/
  state : JobState
  /-- STATUS bits 6:4 (10 R23). -/
  stopReason : StopReason
  /-- STATUS bit 8 (10 R23). -/
  invalidCodeSeen : Bool
  /-- `IN_LEN` (10 R24). -/
  inLen : BitVec 32
  /-- `OUT_LEN` (10 R25). -/
  outLen : BitVec 32
  /-- `PRODUCED` (10 R26). -/
  produced : BitVec 32
  /-- `CONSUMED` (10 R26). -/
  consumed : BitVec 32
  /-- `CHUNKS` (10 R26). -/
  chunks : BitVec 32
  /-- `ACC`, the bit accumulator (10 R28, R29). -/
  acc : BitVec 64
  /-- `CNT`, its valid bits (10 R28, R29). -/
  cnt : BitVec 7
  /-- `IN_POS`, the next input byte to pull (10 R27, R28). -/
  inPos : BitVec 32
  /-- `OUT_POS`, the next output byte to write (10 R28). -/
  outPos : BitVec 32
  /-- `CHUNK_START` (10 R28). -/
  chunkStart : BitVec 32
  /-- `CHUNK_BOUND` (10 R28). -/
  chunkBound : BitVec 17
  /-- `SYM`, the current symbol (10 R28). -/
  sym : BitVec 9
  /-- `CLEN`, its code length (10 R28). -/
  clen : BitVec 4
  /-- `MLEN`, the back-reference length (10 R28). -/
  mlen : BitVec 17
  /-- `OFFSET`, the back-reference offset (10 R28). -/
  offset : BitVec 8
  /-- `NCOPY`, the bytes the copy moves (10 R28). -/
  ncopy : BitVec 17
  /-- `NHDR`, the headers read in this job (10 R28). -/
  nhdr : BitVec 32
  /-- `PHASE` (10 R35). -/
  phase : Phase
  /-- `FALLBACK` (10 R28, 42 R152). -/
  fallback : Bool
  /-- `LENGTHS[0..511]` (10 R30). -/
  lengths : Memory 4
  /-- `TAB[0..32767]` (10 R31). -/
  tab : Memory 16
  /-- `COUNT[1..15]` (10 R32). -/
  count : Memory 10
  /-- `NEXT[1..15]` (10 R32). -/
  next : Memory 24
  /-- IN (20 R50). -/
  inMem : Memory 8
  /-- OUT (20 R51). -/
  outMem : Memory 8
  /-- The open parameters of 00 R7; no step writes them (log 8). -/
  placement : Placement
  /-- The model's own: the place in the job's loops (log 15). -/
  point : JobPoint
  /-- The model's own: the running job's results are any value (93 U5, U6; log 6). -/
  spoiled : Bool
  /-- The model's own: what the outside does next, first entry first (log 2). -/
  host : List HostEvent
  /-- The model's own: the value the host's last read got (log 2). -/
  hostData : BitVec 32
  /-- The model's own: how many free values were drawn (log 5). -/
  draws : Nat
  deriving DecidableEq, Repr

/-- Why the machine stops. -/
inductive Fault where
  /-- Raised by LIT and UNASSIGNED: an OutWrite at an address that OUT does not have (00 R9, 20 R51: "never issued"). SAFE:
  no state that the machine's invariant admits raises it (log 16). -/
  | outOfRange
  deriving DecidableEq, Repr

/-- What the model has no meaning for. -/
inductive Refusal where
  /-- Raised by a refused arm of exec only. SAFE: the instruction has no meaning. -/
  | notModelled (mnemonic : String)
  /-- Raised by a host register access that is not an aligned 32-bit access (10 R21, 93 U10: refuse). SAFE. -/
  | accessWidth
  /-- Raised by a host access to an address that is not in the block's registers, IN or OUT (20 R59; log 9). SAFE. -/
  | outsideBlock
  deriving DecidableEq, Repr

/-- The machine right after reset: the values of 10 R36; where it says "unspecified", 0 (log 3), and memories with nothing
listed (log 4). -/
def State.reset : State where
  state := .idle
  stopReason := .none
  invalidCodeSeen := false
  inLen := 0
  outLen := 0
  produced := 0
  consumed := 0
  chunks := 0
  acc := 0
  cnt := 0
  inPos := 0
  outPos := 0
  chunkStart := 0
  chunkBound := 0
  sym := 0
  clen := 0
  mlen := 0
  offset := 0
  ncopy := 0
  nhdr := 0
  phase := .idle
  fallback := false
  lengths := ⟨[]⟩
  tab := ⟨[]⟩
  count := ⟨[]⟩
  next := ⟨[]⟩
  inMem := ⟨[]⟩
  outMem := ⟨[]⟩
  placement := ⟨0x200000000, 0, 0x100000000⟩
  point := .chunkPass
  spoiled := false
  host := []
  hostData := 0
  draws := 0

end Sys2Proof.Machine
end

