-- ==== Sys2Proof/Machine/Flags.lean ====
section
/-! DEFINITION. The flags of the core: the STATUS fields and FALLBACK (10 R23, R33). There are no condition codes. -/

namespace Sys2Proof.Machine

/-- 10 R23: the three bits of `STATUS.STATE`. -/
def JobState.code : JobState → BitVec 3
  | .idle => 0
  | .busy => 1
  | .complete => 2
  | .truncated => 3
  | .invalidInput => 4

/-- 10 R23, 60 R200: the three bits of `STATUS.STOP_REASON`. -/
def StopReason.code : StopReason → BitVec 3
  | .none => 0
  | .headerShort => 1
  | .bitsSymbol => 2
  | .bitsLen8 => 3
  | .bitsLen16 => 4
  | .bitsOffset => 5
  | .corruptBackref => 6
  | .invalidInput => 7

/-- 60 R200, R202: the STATE a job ends in, by its stop reason. -/
def StopReason.result : StopReason → JobState
  | .none => .complete
  | .invalidInput => .invalidInput
  | _ => .truncated

/-- 10 R23: STATUS as the host reads it; bits 3, 7 and 31:9 read 0. -/
def statusWord (s : State) : BitVec 32 :=
  (0#23 ++ BitVec.ofBool s.invalidCodeSeen ++ 0#1 ++ s.stopReason.code ++ 0#1 ++ s.state.code).cast (by decide)

/-- 42 R152: the fallback leaves its mark. -/
def setFallback (s : State) : State := { s with fallback := true }

/-- A STATE other than BUSY (93 U5, U6) read off the low bits of a free word; every such STATE has a word. -/
def freeState (w : BitVec 32) : JobState :=
  match (w.extractLsb' 0 2).toNat with
  | 0 => .idle
  | 1 => .complete
  | 2 => .truncated
  | _ => .invalidInput

/-- A STOP_REASON read off bits 4:2 of a free word (93 U5, U6); every one has a word. -/
def freeReason (w : BitVec 32) : StopReason :=
  match (w.extractLsb' 2 3).toNat with
  | 0 => .none
  | 1 => .headerShort
  | 2 => .bitsSymbol
  | 3 => .bitsLen8
  | 4 => .bitsLen16
  | 5 => .bitsOffset
  | 6 => .corruptBackref
  | _ => .invalidInput

end Sys2Proof.Machine
end

