-- ==== Sys2Proof/Machine/Ops.lean ====
section
/-! DEFINITION. The named operations: memory cells, the accesses to IN, OUT and TAB (00 R9), and the end of a job, which
is the block's counterpart of taking an exception (60 R202). A job's end has no return (60 R207). -/

namespace Sys2Proof.Machine

/-! ### Memory -/

/-- What an address that is not listed reads as (log 4, log 14). -/
def Memory.unlisted (w : Nat) : BitVec w := 0

/-- One cell. -/
def Memory.read {w : Nat} (m : Memory w) (a : Nat) : BitVec w := (m.cells.lookup a).getD (Memory.unlisted w)

/-- A cell list with no entry for `a`. -/
def eraseCell {w : Nat} (a : Nat) (l : List (Nat × BitVec w)) : List (Nat × BitVec w) := l.filter fun c => c.1 != a

/-- A new cell, before the first one with a greater address. -/
def insertCell {w : Nat} (a : Nat) (v : BitVec w) : List (Nat × BitVec w) → List (Nat × BitVec w)
  | [] => [(a, v)]
  | c :: l => if a < c.1 then (a, v) :: c :: l else c :: insertCell a v l

/-- A write of one cell; the canonical form is kept. -/
def Memory.write {w : Nat} (m : Memory w) (a : Nat) (v : BitVec w) : Memory w :=
  if v = Memory.unlisted w then ⟨eraseCell a m.cells⟩ else ⟨insertCell a v (eraseCell a m.cells)⟩

/-- 0 into every cell below `n` (42 R142). -/
def Memory.clearBelow {w : Nat} (n : Nat) (m : Memory w) : Memory w := ⟨m.cells.filter fun c => n ≤ c.1⟩

/-- `v` into the `n` cells from `lo` on (40 R105). -/
def Memory.fillRange {w : Nat} (lo n : Nat) (v : BitVec w) (m : Memory w) : Memory w :=
  ⟨m.cells.filter (fun c => c.1 < lo) ++
    (if v = Memory.unlisted w then [] else (List.range' lo n).map fun a => (a, v)) ++
    m.cells.filter (fun c => lo + n ≤ c.1)⟩

/-- `f a` into every cell `a` below `n` (93 U5 to U7: a byte of its own for each address). -/
def Memory.drawBelow {w : Nat} (n : Nat) (f : Nat → BitVec w) (m : Memory w) : Memory w :=
  ⟨((List.range n).filter fun a => f a != Memory.unlisted w).map (fun a => (a, f a)) ++
    m.cells.filter (fun c => n ≤ c.1)⟩

/-- The canonical form: addresses strictly rising, and no cell that reads as an unlisted one does. -/
abbrev Memory.wf {w : Nat} (m : Memory w) : Prop :=
  m.cells.Pairwise (fun c d => c.1 < d.1) ∧ ∀ c ∈ m.cells, c.2 ≠ Memory.unlisted w

/-! ### IN, OUT and TAB (00 R9, 20 R50 to R53) -/

/-- `InRead(a)`. Its callers ask for addresses below `IN_LEN` only (42 R144, 41 R121). -/
def inRead (s : State) (a : Nat) : BitVec 8 := s.inMem.read a

/-- `OutRead(a)`. -/
def outRead (s : State) (a : Nat) : BitVec 8 := s.outMem.read a

/-- `OutWrite(a, v)`. -/
def outWrite (a : Nat) (v : BitVec 8) (s : State) : State := { s with outMem := s.outMem.write a v }

/-- `TabRead(i)`. -/
def tabRead (s : State) (i : Nat) : BitVec 16 := s.tab.read i

/-- The write a LIT makes, and its step of `OUT_POS` (42 R155). -/
def emitByte (b : BitVec 8) (s : State) : State :=
  { outWrite s.outPos.toNat b s with outPos := s.outPos + 1 }

/-! ### The end of a job -/

/-- 60 R202: what ending a job with a reason writes, as one step. `finish()` is `jobEnd .none` (42 R143); `raise Stop(r)`
is `jobEnd r`. -/
def jobEnd (r : StopReason) (s : State) : State :=
  { s with
    state := r.result
    stopReason := r
    invalidCodeSeen := s.fallback
    produced := s.outPos
    consumed := s.inPos
    chunks := s.nhdr
    phase := .done }

/-- The OUT bytes `0 .. OUT_LEN − 1` become free values (93 U5, U6, U7). -/
def drawOut (s : State) : State :=
  { s with outMem := s.outMem.drawBelow s.outLen.toNat (Config.freeByte s.draws), draws := s.draws + 1 }

/-- 93 U5, U6: a job whose contract was broken ends, with STATE other than BUSY; every OUT byte, every result register and
every STATUS field is a free value (log 6). -/
def jobEndSpoiled (s : State) : State :=
  { drawOut s with
    state := freeState (Config.freeWord s.draws)
    stopReason := freeReason (Config.freeWord s.draws)
    invalidCodeSeen := (Config.freeWord s.draws).getLsbD 5
    produced := Config.freeWord (s.draws + 1)
    consumed := Config.freeWord (s.draws + 2)
    chunks := Config.freeWord (s.draws + 3)
    phase := .done
    spoiled := false
    draws := s.draws + 4 }

end Sys2Proof.Machine
end

