-- ==== Sys2Proof/Machine/Operands.lean ====
section
/-! DEFINITION. The bit-stream accumulator (41_bit_stream.md) and the operand forms it serves: the length and offset
fields behind a MATCH symbol (43 R171 to R175). -/

namespace Sys2Proof.Machine

/-! ### FILL, PEEK, CONSUME, BSRESET -/

/-- One pull of `FILL` (41 R121): the next input byte lands directly above the buffered bits. -/
def pullByte (s : State) : State :=
  { s with
    acc := s.acc ||| ((inRead s s.inPos.toNat).setWidth 64 <<< s.cnt.toNat)
    cnt := s.cnt + 8
    inPos := s.inPos + 1 }

/-- `k` pulls. -/
def pullBytes : Nat → State → State
  | 0, s => s
  | k + 1, s => pullBytes k (pullByte s)

/-- `FILL(n)` (41 R121, R122); `none` is `fail`, after which the caller goes on from the state it had. -/
def fill (n : Nat) (s : State) : Option State :=
  if n ≤ s.cnt.toNat then some s
  else
    let k := (n - s.cnt.toNat + 7) / 8
    if s.inLen.toNat - s.inPos.toNat < k then none else some (pullBytes k s)

/-- `PEEK(n)` (41 R123): the low `n` bits of `ACC`. -/
def peek (n : Nat) (s : State) : BitVec n := s.acc.setWidth n

/-- `CONSUME(n)` (41 R124). -/
def consume (n : Nat) (s : State) : State := { s with acc := s.acc >>> n, cnt := s.cnt - BitVec.ofNat 7 n }

/-- `BSRESET` (41 R125). -/
def bsReset (s : State) : State := { s with acc := 0, cnt := 0 }

/-! ### Operand fields -/

/-- What reading operand fields gives: a value and the state after it, or a stop and the state it is raised in. -/
inductive Operand (α : Type) where
  | value (v : α) (s : State)
  | stopped (r : StopReason) (s : State)

/-- An `n`-bit field: FILL, PEEK, CONSUME; the stop `r` when FILL fails (43 R172 to R174). -/
def readField (n : Nat) (r : StopReason) (s : State) : Operand (BitVec n) :=
  match fill n s with
  | none => .stopped r s
  | some s' => .value (peek n s') (consume n s')

/-- 43 R172, R173: the length of the extended form. -/
def extendedLength (s : State) : Operand Nat :=
  match readField 8 .bitsLen8 s with
  | .stopped r s1 => .stopped r s1
  | .value v8 s1 =>
    if v8.toNat < Config.ext8Esc then .value (v8.toNat + Config.ext8Base) s1
    else
      match readField 16 .bitsLen16 s1 with
      | .stopped r s2 => .stopped r s2
      | .value v16 s2 => .value (v16.toNat + Config.minMatch) s2

/-- 43 R174, R175: `OFFSET = (1 << oh) + x − 1`, with no bit read when `oh = 0`. -/
def offsetOperand (oh : BitVec 3) (s : State) : Operand Nat :=
  if oh = 0 then .value 0 s
  else
    match readField oh.toNat .bitsOffset s with
    | .stopped r s1 => .stopped r s1
    | .value x s1 => .value (2 ^ oh.toNat + x.toNat - 1) s1

end Sys2Proof.Machine
end

