-- ==== Sys2Proof/Machine/BackReference.lean ====
section
/-! DEFINITION. The back-reference copier (43_back_reference.md): the shared steps R170 to R178, and the meanings of
MATCH.L3 to MATCH.L17, MATCH.X and MATCH.XH. A stop is a next state: it ends the job (60 R202). -/

namespace Sys2Proof.Machine

/-- 43 R178: the copy, one byte at a time, from `src` to `dst`; a step's read sees the writes of the steps before it. -/
def copyBytes : Nat → Nat → Nat → Memory 8 → Memory 8
  | 0, _, _, out => out
  | k + 1, src, dst, out => copyBytes k (src + 1) (dst + 1) (out.write dst (out.read src))

/-- 43 R176 to R178, with `MLEN` and `OFFSET` written. -/
def copyMatch (s : State) : State :=
  if s.outPos.toNat < s.offset.toNat + 1 then jobEnd .corruptBackref s
  else
    let n := min s.mlen.toNat (s.outLen.toNat - s.outPos.toNat)
    { s with
      ncopy := BitVec.ofNat 17 n
      outMem := copyBytes n (s.outPos.toNat - s.offset.toNat - 1) s.outPos.toNat s.outMem
      outPos := s.outPos + BitVec.ofNat 32 n }

/-- 43 R174 to R178, with `MLEN` written. -/
def offsetAndCopy (oh : BitVec 3) (s : State) : State :=
  match offsetOperand oh s with
  | .stopped r s1 => jobEnd r s1
  | .value off s1 => copyMatch { s1 with offset := BitVec.ofNat 8 off }

/-- 43 R171 and what follows it: the length is in the symbol. -/
def shortMatch (lenSlot : Nat) (oh : BitVec 3) (s : State) : State :=
  offsetAndCopy oh { s with mlen := BitVec.ofNat 17 (lenSlot + Config.minMatch) }

/-- 43 R172, R173 and what follows them: the length is in the extension fields. -/
def extendedMatch (oh : BitVec 3) (s : State) : State :=
  match extendedLength s with
  | .stopped r s1 => jobEnd r s1
  | .value len s1 => offsetAndCopy oh { s1 with mlen := BitVec.ofNat 17 len }

/-- 43 R180 MATCH.L3: `lenSlot` 0. -/
def execMatchL3 (oh : BitVec 3) (s : State) : Host.Outcome State Fault Refusal := .next (shortMatch 0 oh s)

/-- 43 R180 MATCH.L4: `lenSlot` 1. -/
def execMatchL4 (oh : BitVec 3) (s : State) : Host.Outcome State Fault Refusal := .next (shortMatch 1 oh s)

/-- 43 R180 MATCH.L5: `lenSlot` 2. -/
def execMatchL5 (oh : BitVec 3) (s : State) : Host.Outcome State Fault Refusal := .next (shortMatch 2 oh s)

/-- 43 R180 MATCH.L6: `lenSlot` 3. -/
def execMatchL6 (oh : BitVec 3) (s : State) : Host.Outcome State Fault Refusal := .next (shortMatch 3 oh s)

/-- 43 R180 MATCH.L7: `lenSlot` 4. -/
def execMatchL7 (oh : BitVec 3) (s : State) : Host.Outcome State Fault Refusal := .next (shortMatch 4 oh s)

/-- 43 R180 MATCH.L8: `lenSlot` 5. -/
def execMatchL8 (oh : BitVec 3) (s : State) : Host.Outcome State Fault Refusal := .next (shortMatch 5 oh s)

/-- 43 R180 MATCH.L9: `lenSlot` 6. -/
def execMatchL9 (oh : BitVec 3) (s : State) : Host.Outcome State Fault Refusal := .next (shortMatch 6 oh s)

/-- 43 R180 MATCH.L10: `lenSlot` 7. -/
def execMatchL10 (oh : BitVec 3) (s : State) : Host.Outcome State Fault Refusal := .next (shortMatch 7 oh s)

/-- 43 R180 MATCH.L11: `lenSlot` 8. -/
def execMatchL11 (oh : BitVec 3) (s : State) : Host.Outcome State Fault Refusal := .next (shortMatch 8 oh s)

/-- 43 R180 MATCH.L12: `lenSlot` 9. -/
def execMatchL12 (oh : BitVec 3) (s : State) : Host.Outcome State Fault Refusal := .next (shortMatch 9 oh s)

/-- 43 R180 MATCH.L13: `lenSlot` 10. -/
def execMatchL13 (oh : BitVec 3) (s : State) : Host.Outcome State Fault Refusal := .next (shortMatch 10 oh s)

/-- 43 R180 MATCH.L14: `lenSlot` 11. -/
def execMatchL14 (oh : BitVec 3) (s : State) : Host.Outcome State Fault Refusal := .next (shortMatch 11 oh s)

/-- 43 R180 MATCH.L15: `lenSlot` 12. -/
def execMatchL15 (oh : BitVec 3) (s : State) : Host.Outcome State Fault Refusal := .next (shortMatch 12 oh s)

/-- 43 R180 MATCH.L16: `lenSlot` 13. -/
def execMatchL16 (oh : BitVec 3) (s : State) : Host.Outcome State Fault Refusal := .next (shortMatch 13 oh s)

/-- 43 R180 MATCH.L17: `lenSlot` 14. -/
def execMatchL17 (oh : BitVec 3) (s : State) : Host.Outcome State Fault Refusal := .next (shortMatch 14 oh s)

/-- 43 R181 MATCH.X. -/
def execMatchX (oh : BitVec 3) (s : State) : Host.Outcome State Fault Refusal := .next (extendedMatch oh s)

/-- 43 R182 MATCH.XH: as MATCH.X with the same `oh`; `lenSlot`, 16 to 31, selects nothing more. -/
def execMatchXH (_lenSlot : BitVec 5) (oh : BitVec 3) (s : State) : Host.Outcome State Fault Refusal :=
  .next (extendedMatch oh s)

end Sys2Proof.Machine
end

