-- ==== Sys2Proof/Machine/Command.lean ====
section
/-! DEFINITION. The meaning of START (42 R140 to R142). -/

namespace Sys2Proof.Machine

/-- 20 R60: IN and OUT, as the host's storage holds them, have a byte in common. -/
def storageOverlaps (s : State) : Bool :=
  decide (s.inLen.toNat ≠ 0 ∧ s.outLen.toNat ≠ 0 ∧
    s.placement.inBase < s.placement.outBase + s.outLen.toNat ∧
    s.placement.outBase < s.placement.inBase + s.inLen.toNat)

/-- 42 R140: what an accepted START writes before any check. -/
def beginJob (s : State) : State :=
  { s with phase := .busy, state := .busy, fallback := false, inPos := 0, outPos := 0, nhdr := 0 }

/-- 42 R142 and the entry of the chunk loop. A job over overlapping storage is one whose results are any value
(93 U5; log 6). -/
def zeroFill (s : State) : State :=
  { s with outMem := s.outMem.clearBelow s.outLen.toNat, point := .chunkPass, spoiled := storageOverlaps s }

/-- 42 R140 START: ignored while BUSY (10 R22); INVALID_INPUT comes before every other check (42 R141). The job's later
operations are the steps that follow (70 R250; log 1). -/
def execStart (s : State) : Host.Outcome State Fault Refusal :=
  if s.phase = .busy then .next s
  else if s.inLen = 0 then .next (jobEnd .invalidInput (beginJob s))
  else .next (zeroFill (beginJob s))

end Sys2Proof.Machine
end

