-- ==== Sys2Proof/Machine/Literal.lean ====
section
/-! DEFINITION. The meanings of LIT and UNASSIGNED (42 R155, R156). -/

namespace Sys2Proof.Machine

/-- The literal step both meanings share (42 R155). Room always remains where the symbol loop runs it (90 C8); where OUT
has no byte at `OUT_POS` the write is at an address that does not exist (log 16). -/
def literalStep (b : BitVec 8) (s : State) : Host.Outcome State Fault Refusal :=
  if s.outPos.toNat < s.outLen.toNat then .next (emitByte b s) else .fault .outOfRange

/-- 42 R155 LIT. -/
def execLit (byte : BitVec 8) (s : State) : Host.Outcome State Fault Refusal := literalStep byte s

/-- 42 R156 UNASSIGNED: `SYM <- 0; CLEN <- 15; FALLBACK <- 1; CONSUME(15); LIT` with the byte 0x00. -/
def execUnassigned (s : State) : Host.Outcome State Fault Refusal :=
  literalStep 0x00 (consume 15 (setFallback { s with sym := 0, clen := 15 }))

end Sys2Proof.Machine
end

