-- ==== Sys2Proof/Syntax.lean ====
section
/-! DEFINITION. The instructions of the block: one constructor per row of spec/opcode_table.json (30 R78), and the
operand fields that stand behind a MATCH symbol in the bit stream (30 R74). -/

namespace Sys2Proof

/-- The operations that a symbol, a table entry or a CTRL word stands for (30 R73, R78). -/
inductive Instr where
  /-- 42 R155: emit the byte. -/
  | lit (byte : BitVec 8)
  /-- 43 R180 with `lenSlot` 0: copy 3 bytes, distance bucket `oh`. -/
  | matchL3 (oh : BitVec 3)
  /-- 43 R180 with `lenSlot` 1: copy 4 bytes, distance bucket `oh`. -/
  | matchL4 (oh : BitVec 3)
  /-- 43 R180 with `lenSlot` 2: copy 5 bytes, distance bucket `oh`. -/
  | matchL5 (oh : BitVec 3)
  /-- 43 R180 with `lenSlot` 3: copy 6 bytes, distance bucket `oh`. -/
  | matchL6 (oh : BitVec 3)
  /-- 43 R180 with `lenSlot` 4: copy 7 bytes, distance bucket `oh`. -/
  | matchL7 (oh : BitVec 3)
  /-- 43 R180 with `lenSlot` 5: copy 8 bytes, distance bucket `oh`. -/
  | matchL8 (oh : BitVec 3)
  /-- 43 R180 with `lenSlot` 6: copy 9 bytes, distance bucket `oh`. -/
  | matchL9 (oh : BitVec 3)
  /-- 43 R180 with `lenSlot` 7: copy 10 bytes, distance bucket `oh`. -/
  | matchL10 (oh : BitVec 3)
  /-- 43 R180 with `lenSlot` 8: copy 11 bytes, distance bucket `oh`. -/
  | matchL11 (oh : BitVec 3)
  /-- 43 R180 with `lenSlot` 9: copy 12 bytes, distance bucket `oh`. -/
  | matchL12 (oh : BitVec 3)
  /-- 43 R180 with `lenSlot` 10: copy 13 bytes, distance bucket `oh`. -/
  | matchL13 (oh : BitVec 3)
  /-- 43 R180 with `lenSlot` 11: copy 14 bytes, distance bucket `oh`. -/
  | matchL14 (oh : BitVec 3)
  /-- 43 R180 with `lenSlot` 12: copy 15 bytes, distance bucket `oh`. -/
  | matchL15 (oh : BitVec 3)
  /-- 43 R180 with `lenSlot` 13: copy 16 bytes, distance bucket `oh`. -/
  | matchL16 (oh : BitVec 3)
  /-- 43 R180 with `lenSlot` 14: copy 17 bytes, distance bucket `oh`. -/
  | matchL17 (oh : BitVec 3)
  /-- 43 R181: copy; the length stands in `LEN8` or `LEN16`. -/
  | matchX (oh : BitVec 3)
  /-- 43 R182: as `matchX`; `lenSlot` is 16 to 31 (90 C1). -/
  | matchXH (lenSlot : BitVec 5) (oh : BitVec 3)
  /-- 42 R156: a window whose table entry has `len` 0. -/
  | unassigned
  /-- 42 R140: the host command that starts a job. -/
  | start
  deriving DecidableEq, Repr

/-- The operand fields behind a MATCH symbol (30 R74). Only the low `oh` bits of `offx` stand in the stream. -/
structure Fields where
  len8 : Option (BitVec 8)
  len16 : Option (BitVec 16)
  offx : BitVec 7
  deriving DecidableEq, Repr

/-- The pseudo-instruction `COPY len=<n>, dist=<d>` (30 R83). -/
structure Copy where
  len : Nat
  dist : Nat
  deriving DecidableEq, Repr

end Sys2Proof
end

