-- ==== Sys2Proof/Machine/Dispatch.lean ====
section
/-! DEFINITION. exec: one arm per constructor of Instr, each one direct call of the instruction's meaning. -/

namespace Sys2Proof.Machine

def exec (i : Instr) (s : State) : Host.Outcome State Fault Refusal :=
  match i with
  | .lit byte => Sys2Proof.Machine.execLit byte s
  | .matchL3 oh => Sys2Proof.Machine.execMatchL3 oh s
  | .matchL4 oh => Sys2Proof.Machine.execMatchL4 oh s
  | .matchL5 oh => Sys2Proof.Machine.execMatchL5 oh s
  | .matchL6 oh => Sys2Proof.Machine.execMatchL6 oh s
  | .matchL7 oh => Sys2Proof.Machine.execMatchL7 oh s
  | .matchL8 oh => Sys2Proof.Machine.execMatchL8 oh s
  | .matchL9 oh => Sys2Proof.Machine.execMatchL9 oh s
  | .matchL10 oh => Sys2Proof.Machine.execMatchL10 oh s
  | .matchL11 oh => Sys2Proof.Machine.execMatchL11 oh s
  | .matchL12 oh => Sys2Proof.Machine.execMatchL12 oh s
  | .matchL13 oh => Sys2Proof.Machine.execMatchL13 oh s
  | .matchL14 oh => Sys2Proof.Machine.execMatchL14 oh s
  | .matchL15 oh => Sys2Proof.Machine.execMatchL15 oh s
  | .matchL16 oh => Sys2Proof.Machine.execMatchL16 oh s
  | .matchL17 oh => Sys2Proof.Machine.execMatchL17 oh s
  | .matchX oh => Sys2Proof.Machine.execMatchX oh s
  | .matchXH lenSlot oh => Sys2Proof.Machine.execMatchXH lenSlot oh s
  | .unassigned => Sys2Proof.Machine.execUnassigned s
  | .start => Sys2Proof.Machine.execStart s

end Sys2Proof.Machine
end

