-- ==== Sys2Proof/WellFormed.lean ====
section
/-! DEFINITION. What an encodable instruction, its operand fields and a COPY are (30 R74, R78, R83). -/

namespace Sys2Proof

/-- How a MATCH finds its length (43 R171 to R173): in the symbol, or in the extension fields. -/
inductive LengthForm where
  /-- 43 R171: `lenSlot` is below 15 and holds the length. -/
  | short (lenSlot : Nat)
  /-- 43 R172, R173: the length stands in `LEN8` or `LEN16`. -/
  | extended
  deriving DecidableEq, Repr

/-- The length form and `oh` of a MATCH (43 R170); `none` for an instruction that copies nothing. -/
def Instr.matchForm : Instr → Option (LengthForm × BitVec 3)
  | .lit _ => none
  | .matchL3 oh => some (.short 0, oh)
  | .matchL4 oh => some (.short 1, oh)
  | .matchL5 oh => some (.short 2, oh)
  | .matchL6 oh => some (.short 3, oh)
  | .matchL7 oh => some (.short 4, oh)
  | .matchL8 oh => some (.short 5, oh)
  | .matchL9 oh => some (.short 6, oh)
  | .matchL10 oh => some (.short 7, oh)
  | .matchL11 oh => some (.short 8, oh)
  | .matchL12 oh => some (.short 9, oh)
  | .matchL13 oh => some (.short 10, oh)
  | .matchL14 oh => some (.short 11, oh)
  | .matchL15 oh => some (.short 12, oh)
  | .matchL16 oh => some (.short 13, oh)
  | .matchL17 oh => some (.short 14, oh)
  | .matchX oh => some (.extended, oh)
  | .matchXH _ oh => some (.extended, oh)
  | .unassigned => none
  | .start => none

/-- 30 R78: MATCH.XH stands for `lenSlot` 16 to 31; every other operand value is legal. -/
def Instr.wellFormed : Instr → Bool
  | .matchXH lenSlot _ => decide (16 ≤ lenSlot.toNat)
  | _ => true

/-- 30 R74: `LEN8` stands exactly in the extended form, `LEN16` exactly behind `LEN8` = 255, and `OFFX` has `oh`
bits. -/
def Fields.wellFormed (form : LengthForm) (oh : BitVec 3) (f : Fields) : Bool :=
  decide (f.offx.toNat < 2 ^ oh.toNat) &&
  match form, f.len8, f.len16 with
  | .short _, none, none => true
  | .extended, some v8, none => decide (v8.toNat < Config.ext8Esc)
  | .extended, some v8, some _ => decide (v8.toNat = Config.ext8Esc)
  | _, _, _ => false

/-- 30 R83: the lengths and distances a COPY may ask for. -/
def Copy.wellFormed (c : Copy) : Bool :=
  decide (3 ≤ c.len ∧ c.len ≤ 65538 ∧ 1 ≤ c.dist ∧ c.dist ≤ 255)

end Sys2Proof
end

