-- ==== Sys2Proof/Decode.lean ====
section
/-! DEFINITION. The decoder and, after it, the encoder: the symbol format SYM9 and the table entry format TBL16
(30 R73, R75), the command word of CTRL (10 R22), the header bytes (30 R71) and the operand fields (30 R74 to R77). -/

namespace Sys2Proof

/-! ### The decoder -/

/-- A word the block reads an operation from, with the format it stands in (30 R73, R75; 10 R22). -/
inductive CodeWord where
  /-- A symbol by itself (30 R73). -/
  | sym9 (s : BitVec 9)
  /-- An entry of TAB (30 R75). -/
  | tbl16 (e : BitVec 16)
  /-- A word the host writes to CTRL (10 R22). -/
  | ctrl32 (c : BitVec 32)
  deriving DecidableEq, Repr

/-- Why a word stands for no operation. -/
inductive DecodeError where
  /-- 10 R22: a CTRL write with bit 0 clear commands nothing. -/
  | noCommand
  deriving DecidableEq, Repr

/-- 30 R73, R78: the operation of a back-reference symbol with the given `lenSlot` and `oh`. -/
def decodeMatch (lenSlot : BitVec 5) (oh : BitVec 3) : Instr :=
  match lenSlot.toNat with
  | 0 => .matchL3 oh
  | 1 => .matchL4 oh
  | 2 => .matchL5 oh
  | 3 => .matchL6 oh
  | 4 => .matchL7 oh
  | 5 => .matchL8 oh
  | 6 => .matchL9 oh
  | 7 => .matchL10 oh
  | 8 => .matchL11 oh
  | 9 => .matchL12 oh
  | 10 => .matchL13 oh
  | 11 => .matchL14 oh
  | 12 => .matchL15 oh
  | 13 => .matchL16 oh
  | 14 => .matchL17 oh
  | 15 => .matchX oh
  | _ => .matchXH lenSlot oh

/-- 30 R73: bit 8 tells LIT from MATCH; bits 7:3 are `lenSlot` (90 C1: five bits) and bits 2:0 are `oh`. -/
def decodeSymbol (s : BitVec 9) : Instr :=
  if s.getLsbD 8 then decodeMatch (s.extractLsb' 3 5) (s.extractLsb' 0 3) else .lit (s.extractLsb' 0 8)

/-- 30 R75: the symbol of a table entry, bits 8:0. -/
def entrySym (e : BitVec 16) : BitVec 9 := e.extractLsb' 0 9

/-- 30 R75: the code length of a table entry, bits 12:9. -/
def entryLen (e : BitVec 16) : BitVec 4 := e.extractLsb' 9 4

/-- 30 R78, 42 R156: an entry with `len` 0 is UNASSIGNED, whatever its other bits; any other stands for its symbol. -/
def decodeEntry (e : BitVec 16) : Instr :=
  if entryLen e = 0 then .unassigned else decodeSymbol (entrySym e)

/-- 10 R22: bit 0 of a CTRL write is START; bits 31:1 are ignored. -/
def decodeCtrl (c : BitVec 32) : Except DecodeError Instr :=
  if c.getLsbD 0 then .ok .start else .error .noCommand

/-- The decoder: total, and the one word that stands for no operation is rejected by name. -/
def decode : CodeWord → Except DecodeError Instr
  | .sym9 s => .ok (decodeSymbol s)
  | .tbl16 e => .ok (decodeEntry e)
  | .ctrl32 c => decodeCtrl c

/-- The low and the high nibble of a header byte: the lengths of an even symbol and of the odd one after it
(20 R56, 30 R71). -/
def headerNibbles (b : BitVec 8) : BitVec 4 × BitVec 4 := (b.extractLsb' 0 4, b.extractLsb' 4 4)

/-- The format in which a row's bits in spec/opcode_table.json stand (log 12): up to 8 or above 16 bits a CTRL word;
9 to 12 bits a symbol; else the 16 bits of a stored word, which are a symbol when they are 1 to 511 and a TAB entry
otherwise (0 is the unassigned entry of 30 R75). -/
def tableWord (nbits w : Nat) : CodeWord :=
  if nbits ≤ 8 ∨ 16 < nbits then .ctrl32 (BitVec.ofNat 32 w)
  else if nbits ≤ 12 ∨ (w ≠ 0 ∧ w < Config.nsym) then .sym9 (BitVec.ofNat 9 w)
  else .tbl16 (BitVec.ofNat 16 w)

/-- What the decoder reads from a row's bits as spec/opcode_table.json numbers them. -/
def decodeTableWord (nbits w : Nat) : Option Instr := (decode (tableWord nbits w)).toOption

/-! ### The encoder -/

/-- 30 R73: the symbol of a back-reference, `1 lenSlot[4:0] oh[2:0]`. -/
def matchSymbol (lenSlot : BitVec 5) (oh : BitVec 3) : BitVec 9 := (1#1 ++ lenSlot ++ oh).cast (by decide)

/-- 30 R73, R78: the symbol an operation of the stream stands at; `none` for UNASSIGNED and START. -/
def Instr.symbol : Instr → Option (BitVec 9)
  | .lit b => some ((0#1 ++ b).cast (by decide))
  | .matchL3 oh => some (matchSymbol 0 oh)
  | .matchL4 oh => some (matchSymbol 1 oh)
  | .matchL5 oh => some (matchSymbol 2 oh)
  | .matchL6 oh => some (matchSymbol 3 oh)
  | .matchL7 oh => some (matchSymbol 4 oh)
  | .matchL8 oh => some (matchSymbol 5 oh)
  | .matchL9 oh => some (matchSymbol 6 oh)
  | .matchL10 oh => some (matchSymbol 7 oh)
  | .matchL11 oh => some (matchSymbol 8 oh)
  | .matchL12 oh => some (matchSymbol 9 oh)
  | .matchL13 oh => some (matchSymbol 10 oh)
  | .matchL14 oh => some (matchSymbol 11 oh)
  | .matchL15 oh => some (matchSymbol 12 oh)
  | .matchL16 oh => some (matchSymbol 13 oh)
  | .matchL17 oh => some (matchSymbol 14 oh)
  | .matchX oh => some (matchSymbol 15 oh)
  | .matchXH lenSlot oh => some (matchSymbol lenSlot oh)
  | .unassigned => none
  | .start => none

/-- 30 R75: the TBL16 entry of a symbol and its code length, bits 15:13 zero. -/
def tableEntry (len : BitVec 4) (sym : BitVec 9) : BitVec 16 := (0#3 ++ len ++ sym).cast (by decide)

/-- The word of an operation in its own format (30 R73, R75; 10 R22). -/
def encode : Instr → CodeWord
  | .unassigned => .tbl16 0
  | .start => .ctrl32 1
  | i => .sym9 (i.symbol.getD 0)

/-- 20 R56, 30 R71: the header byte of an even symbol's length and the odd one's. -/
def headerByte (even odd : BitVec 4) : BitVec 8 := (odd ++ even).cast (by decide)

/-! ### The operand fields (30 R74 to R77, R79) -/

/-- The low `n` bits of `v` in stream order: the first stream bit is the least significant (20 R55). -/
def bitsOf (n v : Nat) : List Bool := (List.range n).map v.testBit

/-- 30 R74: the stream bits of the fields behind a MATCH symbol, in the order LEN8, LEN16, OFFX. -/
def Fields.bits (oh : BitVec 3) (f : Fields) : List Bool :=
  (f.len8.map fun v => bitsOf 8 v.toNat).getD [] ++ (f.len16.map fun v => bitsOf 16 v.toNat).getD [] ++
    bitsOf oh.toNat f.offx.toNat

/-- 30 R76: the length the symbol and its fields stand for. -/
def Fields.length (form : LengthForm) (f : Fields) : Nat :=
  match form with
  | .short lenSlot => lenSlot + Config.minMatch
  | .extended =>
    match f.len16 with
    | some v16 => v16.toNat + Config.minMatch
    | none => (f.len8.getD 0).toNat + Config.ext8Base

/-- 30 R77: the copy distance, `offset + 1`. -/
def Fields.distance (oh : BitVec 3) (f : Fields) : Nat := 2 ^ oh.toNat + f.offx.toNat

/-- 30 R79: the stream bits one step takes: the code's (15 for UNASSIGNED) and the fields'. -/
def footprint (codeLen : Nat) (i : Instr) (f : Fields) : Nat :=
  match i.matchForm with
  | some (_, oh) => codeLen + (f.bits oh).length
  | none => if i = .unassigned then 15 else codeLen

/-- 30 R83: the canonical MATCH of a COPY, with its fields. -/
def Copy.expand (c : Copy) : Instr × Fields :=
  let oh := Nat.log2 c.dist
  let offx := BitVec.ofNat 7 (c.dist - 2 ^ oh)
  if c.len ≤ 17 then (decodeMatch (BitVec.ofNat 5 (c.len - 3)) (BitVec.ofNat 3 oh), ⟨none, none, offx⟩)
  else if c.len ≤ 272 then (.matchX (BitVec.ofNat 3 oh), ⟨some (BitVec.ofNat 8 (c.len - 18)), none, offx⟩)
  else (.matchX (BitVec.ofNat 3 oh), ⟨some 255, some (BitVec.ofNat 16 (c.len - 3)), offx⟩)

end Sys2Proof
end

