-- ==== Sys2Proof/Machine/Builder.lean ====
section
/-! DEFINITION. The canonical Huffman table builder (40_table_builder.md) and the header read that feeds it (42 R145). The
steps are functions of the memories they read and write; `readHeader` and `build` apply them to the state. -/

namespace Sys2Proof.Machine

/-- 42 R145: header byte `i` gives two code lengths (30 R71). -/
def unpackHeaderByte (headerByteAt : Nat → BitVec 8) (lengths : Memory 4) (i : Nat) : Memory 4 :=
  let nibbles := headerNibbles (headerByteAt i)
  (lengths.write (2 * i) nibbles.1).write (2 * i + 1) nibbles.2

/-- 42 R145: the 256 header bytes in ascending order, then `IN_POS` and `NHDR`. -/
def readHeader (s : State) : State :=
  { s with
    lengths := (List.range Config.hdrBytes).foldl (unpackHeaderByte fun i => inRead s (s.inPos.toNat + i)) s.lengths
    inPos := s.inPos + 256
    nhdr := s.nhdr + 1 }

/-- 40 R101: every entry of TAB becomes the unassigned value. -/
def clearTab (tab : Memory 16) : Memory 16 := tab.clearBelow Config.tsize

/-- 40 R102: the number of symbols of length `len`. -/
def countOf (lengths : Memory 4) (len : Nat) : Nat :=
  (List.range Config.nsym).countP fun sym => (lengths.read sym).toNat == len

/-- The lengths 1 to 15, in order. -/
def codeLengths : List Nat := List.range' 1 Config.maxLen

/-- 40 R102: `COUNT[1..15]`. -/
def countLengths (lengths : Memory 4) (count : Memory 10) : Memory 10 :=
  codeLengths.foldl (fun m len => m.write len (BitVec.ofNat 10 (countOf lengths len))) count

/-- 40 R103: one length's step of the first-code recurrence on `NEXT` and the running value `code`. -/
def firstCodeStep (count : Memory 10) (p : Memory 24 × Nat) (len : Nat) : Memory 24 × Nat :=
  let code := (p.2 + if len = 1 then 0 else (count.read (len - 1)).toNat) <<< 1
  (p.1.write len (BitVec.ofNat 24 code), code)

/-- 40 R103: `NEXT[1..15]`, the first canonical code of each length. -/
def firstCodes (count : Memory 10) (next : Memory 24) : Memory 24 :=
  (codeLengths.foldl (firstCodeStep count) (next, 0)).1

/-- 40 R105: the pair (sym, len) into every slot `i` with `i >> (15 − len) = code`; with `code < 2^len` these are
the `2^(15 − len)` slots from `code · 2^(15 − len)` on, and otherwise there are none (40 R107). -/
def placeCode (sym len code : Nat) (tab : Memory 16) : Memory 16 :=
  if code < 2 ^ len then
    tab.fillRange (code * 2 ^ (15 - len)) (2 ^ (15 - len)) (tableEntry (BitVec.ofNat 4 len) (BitVec.ofNat 9 sym))
  else tab

/-- 40 R104: a symbol of nonzero length takes the next unused code of its length; on `NEXT` and TAB. -/
def placeSymbol (lengths : Memory 4) (p : Memory 24 × Memory 16) (sym : Nat) : Memory 24 × Memory 16 :=
  let len := (lengths.read sym).toNat
  if 0 < len then
    let code := p.1.read len
    (p.1.write len (code + 1), placeCode sym len code.toNat p.2)
  else p

/-- `BUILD(LENGTHS)` (40 R100): clear, count, first codes, then every symbol in ascending order. -/
def build (s : State) : State :=
  let count := countLengths s.lengths s.count
  let p := (List.range Config.nsym).foldl (placeSymbol s.lengths) (firstCodes count s.next, clearTab s.tab)
  { s with count := count, next := p.1, tab := p.2 }

end Sys2Proof.Machine
end

