-- ==== Sys2Proof/Machine/Decoder.lean ====
section
/-! DEFINITION. The chunked stream decoder between its symbol operations (42_decoder.md): the chunk pass and the symbol
fetch. -/

namespace Sys2Proof.Machine

/-- What a step is to do: run an instruction from a state, or go to a state by itself, or refuse. -/
inductive Fetched where
  /-- The instruction the decoder read, and the state exec runs it from. -/
  | instr (i : Instr) (s : State)
  /-- No instruction: the step ends in this state. -/
  | settled (s : State)
  /-- A host access the block refuses. -/
  | refused (r : Refusal)

/-- 42 R148. -/
def openChunk (s : State) : State :=
  { s with
    chunkStart := s.outPos
    chunkBound := BitVec.ofNat 17 (min Config.chunkOut (s.outLen.toNat - s.outPos.toNat))
    point := .symbolLoop }

/-- One chunk pass up to its symbol loop (42 R143 to R148): normal end, header check, header read, BUILD, BSRESET, chunk
bound. -/
def chunkPass (s : State) : State :=
  if s.outLen.toNat ≤ s.outPos.toNat then jobEnd .none s
  else if s.inLen.toNat - s.inPos.toNat < Config.hdrBytes then jobEnd .headerShort s
  else openChunk (bsReset (build (readHeader s)))

/-- 42 R151: `SYM` and `CLEN` from the entry that the window selects. -/
def lookUp (s : State) : State :=
  let e := tabRead s (peek 15 s).toNat
  { s with sym := entrySym e, clen := entryLen e }

/-- 42 R151 to R154: the instruction the looked-up entry stands for. UNASSIGNED does its own CONSUME (42 R156); before any
other, the step consumes `CLEN` bits (42 R153). -/
def decodeWindow (s : State) : Fetched :=
  match decodeEntry (tabRead s (peek 15 s).toNat) with
  | .unassigned => .instr .unassigned (lookUp s)
  | i => .instr i (consume (lookUp s).clen.toNat (lookUp s))

/-- 42 R149, R150: at the loop's condition, the next symbol, or the way back to the chunk pass. -/
def symbolPass (s : State) : Fetched :=
  if s.outPos.toNat - s.chunkStart.toNat < s.chunkBound.toNat then
    match fill 15 s with
    | none => .settled (jobEnd .bitsSymbol s)
    | some s1 => decodeWindow s1
  else .settled { s with point := .chunkPass }

/-- The core's next operation. It has none when PHASE is not BUSY (60 R214). -/
def coreFetch (s : State) : Fetched :=
  match s.phase, s.spoiled, s.point with
  | .busy, true, _ => .settled (jobEndSpoiled s)
  | .busy, false, .chunkPass => .settled (chunkPass s)
  | .busy, false, .symbolLoop => symbolPass s
  | _, _, _ => .settled s

end Sys2Proof.Machine
end

