-- ==== Sys2Proof/Machine/HostPort.lean ====
section
/-! DEFINITION. The host's side of the block: register accesses (10 R21 to R26), IN and OUT accesses (10 R37, 70 R240)
and the platform's reset (70 R230); and the choice between the host's turn and the core's. -/

namespace Sys2Proof.Machine

/-- The size of the IN and OUT spaces: addresses are offsets of 32 bits (00 R7). -/
def spaceSize : Nat := 2 ^ 32

/-- The offset of a host address in a space of the block that begins at `base`; `none` outside. -/
def spaceOffset (base addr : Nat) : Option Nat :=
  if base ≤ addr ∧ addr < base + spaceSize then some (addr - base) else none

/-- The offset of a register access (10 R21): aligned 32-bit accesses from `REG_BASE` on, anything else is refused. -/
def registerOffset (s : State) (addr bytes : Nat) : Except Refusal Nat :=
  if addr < s.placement.regBase then .error .outsideBlock
  else if bytes = 4 ∧ (addr - s.placement.regBase) % 4 = 0 then .ok (addr - s.placement.regBase)
  else .error .accessWidth

/-- The state after a host read that got `v`. -/
def answer (v : BitVec 32) (s : State) : State := { s with hostData := v }

/-- A read the spec answers with any value (93 U3). -/
def answerFree (s : State) : State := answer (Config.freeWord s.draws) { s with draws := s.draws + 1 }

/-- A result register: any value while BUSY (10 R26, 93 U3), its value otherwise. -/
def readResult (v : BitVec 32) (s : State) : State := if s.state = .busy then answerFree s else answer v s

/-- A register read by offset (10 R21 to R26): CTRL and the reserved offsets read 0. The reserved offsets have no end here (log 9). -/
def readRegister (offset : Nat) (s : State) : State :=
  match offset with
  | 0x04 => answer (statusWord s) s
  | 0x08 => answer s.inLen s
  | 0x0C => answer s.outLen s
  | 0x10 => readResult s.produced s
  | 0x14 => readResult s.consumed s
  | 0x18 => readResult s.chunks s
  | _ => answer 0 s

/-- A register write by offset (10 R21 to R26): a CTRL word is decoded; the lengths are written while not BUSY; every other
offset ignores the write. The reserved offsets have no end here (log 9). -/
def writeRegister (offset : Nat) (v : BitVec 32) (s : State) : Fetched :=
  match offset with
  | 0x00 =>
    match decodeCtrl v with
    | .ok i => .instr i s
    | .error _ => .settled s
  | 0x08 => .settled (if s.state = .busy then s else { s with inLen := v })
  | 0x0C => .settled (if s.state = .busy then s else { s with outLen := v })
  | _ => .settled s

/-- While BUSY, a host write to IN or OUT makes the running job's results any value (70 R240, 93 U6). DESIGN CHOICE (log 23):
a write anywhere in the window of 2^32 bytes counts as one, also at or above `IN_LEN` or `OUT_LEN`, where 20 R50 and R51 give
IN and OUT no byte and the spec does not say whether it disturbs the job. -/
def spoilIfBusy (s : State) : State := { s with spoiled := s.spoiled || decide (s.state = .busy) }

/-- A host write of a byte of IN's storage (10 R37, 20 R68; at or above `IN_LEN`, log 23). -/
def hostWriteIn (a : Nat) (v : BitVec 8) (s : State) : State :=
  spoilIfBusy { s with inMem := s.inMem.write a v }

/-- A host write of a byte of OUT's storage (70 R240; at or above `OUT_LEN`, log 23). -/
def hostWriteOut (a : Nat) (v : BitVec 8) (s : State) : State :=
  spoilIfBusy { s with outMem := s.outMem.write a v }

/-- A host read of a byte of OUT: any value while BUSY (20 R65, 93 U4), also at or above `OUT_LEN` (log 23). -/
def hostReadOut (a : Nat) (s : State) : State :=
  if s.state = .busy then answer ((Config.freeByte s.draws a).setWidth 32) { s with draws := s.draws + 1 }
  else answer ((outRead s a).setWidth 32) s

/-- 70 R230: the registers take their reset values and IN is not changed; OUT is not changed, but after a reset while BUSY its
bytes are any value (93 U7; log 7). The host's side and the parameters are not the block's to reset. -/
def platformReset (s : State) : State :=
  let s1 := if s.state = .busy then drawOut s else s
  { State.reset with
    inMem := s1.inMem, outMem := s1.outMem, placement := s1.placement, host := s1.host, hostData := s1.hostData,
    draws := s1.draws }

/-- One event of the outside, already taken from the list. -/
def hostFetch (e : HostEvent) (s : State) : Fetched :=
  match e with
  | .coreTurn => coreFetch s
  | .regRead addr bytes =>
    match registerOffset s addr bytes with
    | .ok offset => .settled (readRegister offset s)
    | .error r => .refused r
  | .regWrite addr bytes v =>
    match registerOffset s addr bytes with
    | .ok offset => writeRegister offset v s
    | .error r => .refused r
  | .inWrite addr v =>
    match spaceOffset s.placement.inBase addr with
    | some a => .settled (hostWriteIn a v s)
    | none => .refused .outsideBlock
  | .outRead addr =>
    match spaceOffset s.placement.outBase addr with
    | some a => .settled (hostReadOut a s)
    | none => .refused .outsideBlock
  | .outWrite addr v =>
    match spaceOffset s.placement.outBase addr with
    | some a => .settled (hostWriteOut a v s)
    | none => .refused .outsideBlock
  | .reset => .settled (platformReset s)

/-- What the next step does: the first pending event of the outside, or, when none is pending, the core's turn (log 2). -/
def fetch (s : State) : Fetched :=
  match s.host with
  | [] => coreFetch s
  | e :: rest => hostFetch e { s with host := rest }

/-! ### Placing one instruction where the next step fetches it (log 13) -/

/-- A CTRL word as the host's next access. -/
def placeCommand (c : BitVec 32) (s : State) : State :=
  { s with host := .regWrite s.placement.regBase 4 c :: s.host }

/-- The bytes behind a placed code: the window's 15 bits and the longest fields, 46 bits (30 R79), all of them 0. -/
def placedStream (m : Memory 8) : Memory 8 := (List.range 6).foldl (fun m a => m.write a 0) m

/-- Room for one more output byte, as the symbol loop has it (42 R149). -/
def placeRoom (s : State) : State :=
  if s.outPos.toNat < s.outLen.toNat then s
  else { s with outPos := if s.outPos.toNat < 0xFFFFFFFF then s.outPos else 0, outLen := 0xFFFFFFFF }

/-- A TAB entry in slot 0, a stream of zero bits that selects it, and a running job at its symbol loop, with the core's turn
next. -/
def placeEntry (e : BitVec 16) (s : State) : State :=
  let s1 := placeRoom s
  { s1 with
    tab := s1.tab.write 0 e
    inMem := placedStream s1.inMem
    inLen := 6
    inPos := 0
    acc := 0
    cnt := 0
    chunkStart := s1.outPos
    chunkBound := BitVec.ofNat 17 (min Config.chunkOut (s1.outLen.toNat - s1.outPos.toNat))
    phase := .busy
    state := .busy
    spoiled := false
    point := .symbolLoop
    host := .coreTurn :: s1.host }

/-- A word of the opcode table, in its format, where the next step fetches it. A symbol stands in an entry of code
length 15. -/
def placeWord (nbits w : Nat) (s : State) : State :=
  match tableWord nbits w with
  | .ctrl32 c => placeCommand c s
  | .sym9 σ => placeEntry (tableEntry 15 σ) s
  | .tbl16 e => placeEntry e s

end Sys2Proof.Machine
end

