-- ==== Sys2Proof/Machine/Step.lean ====
section
/-! DEFINITION. One step of the machine: the next event of the outside or the next operation of the core (log 1, log 2). -/

namespace Sys2Proof.Machine

/-- One step. An instruction that was read runs by exec from the state the fetch left. -/
def step (s : State) : Host.Outcome State Fault Refusal :=
  match fetch s with
  | .instr i s' => exec i s'
  | .settled s' => .next s'
  | .refused r => .refused r

/-- `s` with one instruction placed where the next step fetches it (log 13). -/
def State.withFetchWord (s : State) (nbits w : Nat) : State := placeWord nbits w s

end Sys2Proof.Machine
end

