-- ==== Sys2Proof/Safety.lean ====
section
/-! DEFINITION. The terms the statements use: the bit stream a state still has to read, the canonical code of a symbol, the
bytes a copy makes, runs, the core's turn, and the invariant that every step keeps. -/

namespace Sys2Proof.Machine

/-! ### The bit stream (00 R10, 20 R54) -/

/-- Bit `j` of the stream from the next unconsumed bit on: first the bits of ACC, then the bytes of IN from `IN_POS` on,
each least significant bit first. -/
def streamBit (s : State) (j : Nat) : Bool :=
  if j < s.cnt.toNat then s.acc.getLsbD j
  else (inRead s (s.inPos.toNat + (j - s.cnt.toNat) / 8)).getLsbD ((j - s.cnt.toNat) % 8)

/-- How many bits a FILL can still make valid (41 R122). -/
def available (s : State) : Nat := s.cnt.toNat + 8 * (s.inLen.toNat - s.inPos.toNat)

/-- The number that `n` stream bits from bit `j` on stand for: the first one is the least significant (20 R55). -/
def streamField (s : State) (j n : Nat) : Nat :=
  ((List.range n).map fun i => if streamBit s (j + i) then 2 ^ i else 0).sum

/-- 10 R29: `ACC < 2^CNT` and `CNT ≤ 23`. -/
abbrev accClean (s : State) : Prop := s.acc.toNat < 2 ^ s.cnt.toNat ∧ s.cnt.toNat ≤ 23

/-! ### Canonical codes (40 R103, R104) -/

/-- 40 R103: the first canonical code of a length, computed without wrap-around. -/
def firstCode (lengths : Memory 4) : Nat → Nat
  | 0 => 0
  | len + 1 => (firstCode lengths len + if len = 0 then 0 else countOf lengths len) * 2

/-- 40 R104: the canonical code of a symbol: the first code of its length, and one more for every symbol below it of the same
length. -/
def canonicalCode (lengths : Memory 4) (sym : Nat) : Nat :=
  firstCode lengths (lengths.read sym).toNat +
    (List.range sym).countP fun t => lengths.read t == lengths.read sym

/-- 40 R105: slot `i` is one of the slots of symbol `sym`. -/
def slotOf (lengths : Memory 4) (sym i : Nat) : Prop :=
  0 < (lengths.read sym).toNat ∧ i >>> (15 - (lengths.read sym).toNat) = canonicalCode lengths sym

/-- 30 R75: the entry of a symbol with its code length. -/
def symbolEntry (lengths : Memory 4) (sym : Nat) : BitVec 16 :=
  tableEntry (lengths.read sym) (BitVec.ofNat 9 sym)

/-! ### Copies (43 R176 to R178) -/

/-- What OUT holds at `a` after a copy of `n` bytes to `dst` from `dist` bytes back: inside the copy, the `dist` bytes before
`dst`, repeated. -/
def copiedByte (out : Memory 8) (dst dist n a : Nat) : BitVec 8 :=
  if dst ≤ a ∧ a < dst + n then out.read (dst - dist + (a - dst) % dist) else out.read a

/-- 43 R177: the bytes a back-reference of length `len` copies. -/
def copyCount (s : State) (len : Nat) : Nat := min len (s.outLen.toNat - s.outPos.toNat)

/-- The state a completed back-reference of length `len` and distance `dist` leaves (43 R171 to R178), read against the state
`s` it began in and the state `t` it ended in: ACC, CNT and IN_POS are those of `t`. -/
def copied (s t : State) (len dist : Nat) : Prop :=
  t = { s with
        acc := t.acc, cnt := t.cnt, inPos := t.inPos, outMem := t.outMem
        mlen := BitVec.ofNat 17 len
        offset := BitVec.ofNat 8 (dist - 1)
        ncopy := BitVec.ofNat 17 (copyCount s len)
        outPos := s.outPos + BitVec.ofNat 32 (copyCount s len) } ∧
  ∀ a, t.outMem.read a = copiedByte s.outMem s.outPos.toNat dist (copyCount s len) a

/-- `n` stream bits were read between `s` and `t`: the stream of `t` is the stream of `s` from bit `n` on. -/
def advanced (s t : State) (n : Nat) : Prop :=
  available t + n = available s ∧ ∀ j, streamBit t j = streamBit s (n + j)

/-- What a back-reference with `fieldBits` bits of length fields, length `len` and the `oh` given ends in when its source lies before
OUT (43 R176): CORRUPT_BACKREF, with MLEN, OFFSET and the stream's cursor written, and nothing copied. -/
def endsCorrupt (i : Instr) (oh : BitVec 3) (s : State) (fieldBits len : Nat) : Prop :=
  fieldBits + oh.toNat ≤ available s → s.outPos.toNat < 2 ^ oh.toNat + streamField s fieldBits oh.toNat →
    ∃ s1 : State, exec i s = .next (jobEnd .corruptBackref s1) ∧ advanced s s1 (fieldBits + oh.toNat) ∧
      s1 = { s with
             acc := s1.acc, cnt := s1.cnt, inPos := s1.inPos, mlen := BitVec.ofNat 17 len
             offset := BitVec.ofNat 8 (2 ^ oh.toNat + streamField s fieldBits oh.toNat - 1) }

/-! ### Steps and runs -/

/-- The core has the next step: nothing is pending, or the next event is a turn of the core. -/
abbrev coreTurn (s : State) : Prop := s.host = [] ∨ s.host.head? = some .coreTurn

/-- The state without the event the next step takes. -/
def afterTurn (s : State) : State := { s with host := s.host.tail }

/-- A job runs and its contract holds: the core's turn performs an operation of the job. -/
abbrev jobRuns (s : State) : Prop := s.phase = .busy ∧ s.spoiled = false

/-- `k` steps; the first fault or refusal ends the run. -/
def run : Nat → State → Host.Outcome State Fault Refusal
  | 0, s => .next s
  | k + 1, s =>
    match step s with
    | .next t => run k t
    | .fault f => .fault f
    | .refused r => .refused r

/-- How many of the first `k` steps from `s` begin in a state with `p`. -/
def countSteps (p : State → Prop) [DecidablePred p] : Nat → State → Nat
  | 0, _ => 0
  | k + 1, s =>
    (if p s then 1 else 0) +
      match step s with
      | .next t => countSteps p k t
      | .fault _ => 0
      | .refused _ => 0

/-- The next step is a chunk pass of a running job (42 R143 to R148). -/
abbrev atChunkPass (s : State) : Prop := coreTurn s ∧ jobRuns s ∧ s.point = .chunkPass

/-- The next step is a symbol decode of a running job: its chunk has not emitted its bound (42 R149). -/
abbrev atSymbolDecode (s : State) : Prop :=
  coreTurn s ∧ jobRuns s ∧ s.point = .symbolLoop ∧ s.outPos.toNat - s.chunkStart.toNat < s.chunkBound.toNat

/-! ### The invariant -/

/-- A memory in canonical form whose cells from `lo` up to but not including `hi` alone can differ from 0. -/
abbrev Memory.within {w : Nat} (m : Memory w) (lo hi : Nat) : Prop :=
  m.wf ∧ ∀ a, a < lo ∨ hi ≤ a → m.read a = 0

/-- What holds at reset and after every step. At reset, and after a reset event, `acc` and `entries` hold because of log 3, since 10 R36
leaves ACC, CNT and TAB unspecified there. -/
structure State.Inv (s : State) : Prop where
  /-- 10 R29. -/
  acc : accClean s
  /-- 10 R35. -/
  idle : s.phase = .idle → s.state = .idle
  /-- 10 R35, 60 R201. -/
  busy : s.phase = .busy ↔ s.state = .busy
  /-- Only a running job is spoiled (log 6). -/
  spoiled : s.spoiled = true → s.phase = .busy
  /-- 10 R27. -/
  inPos : s.phase = .busy → s.inPos.toNat ≤ s.inLen.toNat
  /-- 42 R160. -/
  outPos : s.phase = .busy → s.outPos.toNat ≤ s.outLen.toNat
  /-- 10 R28: `NHDR ≤ IN_LEN / 256`. -/
  nhdr : s.phase = .busy → 256 * s.nhdr.toNat ≤ s.inPos.toNat
  /-- 10 R28, 42 R148. -/
  chunk : s.phase = .busy → s.point = .symbolLoop →
    s.chunkStart.toNat ≤ s.outPos.toNat ∧ 1 ≤ s.chunkBound.toNat ∧ s.chunkBound.toNat ≤ 65536 ∧
      s.chunkStart.toNat + s.chunkBound.toNat ≤ s.outLen.toNat
  /-- 42 R142, 60 R203: what the job has not produced reads 0. -/
  tail : s.phase = .busy → s.spoiled = false →
    ∀ a, s.outPos.toNat ≤ a → a < s.outLen.toNat → s.outMem.read a = 0
  /-- 30 R75: bits 15:13 of an entry are 0, and an unassigned entry is 0x0000. -/
  entries : ∀ i, (s.tab.read i).toNat < 2 ^ 13 ∧ (entryLen (s.tab.read i) = 0 → s.tab.read i = 0)
  /-- 10 R30 for the indices; this and the clauses below it, in the model's form of a memory (log 14). -/
  lengths : s.lengths.within 0 512
  /-- 10 R31. -/
  tab : s.tab.within 0 32768
  /-- 10 R32. -/
  count : s.count.within 1 16
  /-- 10 R32. -/
  next : s.next.within 1 16
  /-- 00 R7, log 9: the window of 2^32 bytes. -/
  inMem : s.inMem.within 0 (2 ^ 32)
  /-- 00 R7, log 9. -/
  outMem : s.outMem.within 0 (2 ^ 32)

end Sys2Proof.Machine
end

