-- ==== Sys2Proof/Certificates/Slice0/Obligations.lean ====
section
/-! DEFINITION. The statements for the provers. Each docstring names the rule of spec/ it formalises. -/

open Sys2Proof Sys2Proof.Machine

/-! ### Encoding and decoding -/

/-- 30 R73, R75, R78; 10 R22: words written out from the encoding tables decode to the operations they stand for. -/
def Obligations.WrittenWordsDecode : Prop :=
  decode (.sym9 0b0_0100_0001) = .ok (.lit 0x41) ∧
  decode (.sym9 0b1_00000_111) = .ok (.matchL3 7) ∧
  decode (.sym9 0b1_00010_001) = .ok (.matchL5 1) ∧
  decode (.sym9 0b1_01110_000) = .ok (.matchL17 0) ∧
  decode (.sym9 0b1_01111_000) = .ok (.matchX 0) ∧
  decode (.sym9 0b1_10000_000) = .ok (.matchXH 16 0) ∧
  decode (.sym9 0b1_11111_111) = .ok (.matchXH 31 7) ∧
  decode (.tbl16 0x0000) = .ok .unassigned ∧
  decode (.tbl16 0b000_1111_1_01111_010) = .ok (.matchX 2) ∧
  decode (.ctrl32 0x00000001) = .ok .start ∧
  decode (.ctrl32 0xFFFFFFFE) = .error .noCommand

/-- 30 R73, R75, R78: decode and encode agree in both directions: every symbol stands for one well-formed operation whose encoding is
that symbol, and decoding the encoding of a well-formed operation gives it back, in its own format and in a table entry of any code
length. -/
def Obligations.DecodeAndEncodeAgree : Prop :=
  (∀ σ : BitVec 9, (decodeSymbol σ).wellFormed = true ∧ (decodeSymbol σ).symbol = some σ ∧
    encode (decodeSymbol σ) = .sym9 σ) ∧
  ∀ i : Instr, i.wellFormed = true →
    decode (encode i) = .ok i ∧
    ∀ (σ : BitVec 9) (len : BitVec 4), i.symbol = some σ → len ≠ 0 → decodeEntry (tableEntry len σ) = i

/-- Decode and encode agree in the running machine: when the slot that the next 15 stream bits select holds the entry of a
well-formed operation with any code length, the core's step runs exactly that operation, with SYM and CLEN written and the code's
bits consumed (42 R149 to R154, 30 R72 to R75). -/
def Obligations.EncodedSymbolRunsFromTheStream : Prop :=
  ∀ (i : Instr) (σ : BitVec 9) (len : BitVec 4) (s : State),
    i.wellFormed = true → i.symbol = some σ → len ≠ 0 →
    coreTurn s → jobRuns s → s.point = .symbolLoop →
    s.outPos.toNat - s.chunkStart.toNat < s.chunkBound.toNat →
    accClean s → 15 ≤ available s → s.tab.read (streamField s 0 15) = tableEntry len σ →
    ∃ s1 : State, step s = exec i s1 ∧
      s1 = { afterTurn s with sym := σ, clen := len, acc := s1.acc, cnt := s1.cnt, inPos := s1.inPos } ∧
      advanced s s1 len.toNat ∧ accClean s1

/-- 30 R74 to R77: a MATCH whose operand fields stand encoded at the head of the stream copies the length and from the distance
those fields stand for, and takes exactly their bits; for every MATCH, every field at every value. -/
def Obligations.EncodedFieldsDriveTheCopy : Prop :=
  ∀ (i : Instr) (form : LengthForm) (oh : BitVec 3) (f : Fields) (s : State),
    i.matchForm = some (form, oh) → f.wellFormed form oh = true → accClean s →
    (f.bits oh).length ≤ available s →
    (∀ (j : Nat) (h : j < (f.bits oh).length), streamBit s j = (f.bits oh)[j]) →
    f.distance oh ≤ s.outPos.toNat →
    ∃ t : State, exec i s = .next t ∧ copied s t (f.length form) (f.distance oh) ∧
      advanced s t (f.bits oh).length ∧ accClean t

/-- 30 R83: the expansion of a COPY is a well-formed MATCH with well-formed fields that stand for its length and distance. -/
def Obligations.CopyExpandsToItsLengthAndDistance : Prop :=
  ∀ c : Copy, c.wellFormed = true →
    ∃ (form : LengthForm) (oh : BitVec 3), c.expand.1.matchForm = some (form, oh) ∧ c.expand.1.wellFormed = true ∧
      c.expand.2.wellFormed form oh = true ∧ c.expand.2.length form = c.len ∧ c.expand.2.distance oh = c.dist

/-- 42 R145, 30 R71: the header read recovers the code lengths a header was packed from, and writes LENGTHS, `IN_POS` and
`NHDR` alone. -/
def Obligations.HeaderReadRecoversPackedLengths : Prop :=
  ∀ (s : State) (packed : Memory 4),
    (∀ i, i < 256 → inRead s (s.inPos.toNat + i) = headerByte (packed.read (2 * i)) (packed.read (2 * i + 1))) →
    (∀ sym, sym < 512 → (readHeader s).lengths.read sym = packed.read sym) ∧
    readHeader s = { s with lengths := (readHeader s).lengths, inPos := s.inPos + 256, nhdr := s.nhdr + 1 }

/-! ### The step and the decoded instruction -/

/-- A step runs the decoded instruction (42 R149 to R154): at the symbol loop, with a window of 15 bits, step is exec of the
instruction that the selected entry decodes to, from the state with SYM and CLEN written, `CLEN` bits consumed but for
UNASSIGNED, which consumes its own; and that instruction is well formed. -/
def Obligations.StepRunsTheDecodedSymbol : Prop :=
  ∀ s s1 : State, coreTurn s → jobRuns s → s.point = .symbolLoop →
    s.outPos.toNat - s.chunkStart.toNat < s.chunkBound.toNat → fill 15 (afterTurn s) = some s1 →
    ∀ e : BitVec 16, e = tabRead s1 (peek 15 s1).toNat →
    ∀ s2 : State, s2 = { s1 with sym := entrySym e, clen := entryLen e } →
      (decodeEntry e).wellFormed = true ∧
      (decodeEntry e = .unassigned → step s = exec .unassigned s2) ∧
      (decodeEntry e ≠ .unassigned → step s = exec (decodeEntry e) (consume (entryLen e).toNat s2))

/-- 10 R22, 42 R140: a host write of CTRL with bit 0 set runs START, whatever bits 31:1 are; with bit 0 clear it does nothing. -/
def Obligations.CtrlWriteRunsStart : Prop :=
  ∀ (s : State) (v : BitVec 32) (rest : List HostEvent), s.host = .regWrite s.placement.regBase 4 v :: rest →
    (v.getLsbD 0 = true → step s = exec .start { s with host := rest }) ∧
    (v.getLsbD 0 = false → step s = .next { s with host := rest })

/-- 60 R214: when PHASE is not BUSY the core performs no operation. -/
def Obligations.CoreRestsWhenNotBusy : Prop :=
  ∀ s : State, coreTurn s → s.phase ≠ .busy → step s = .next (afterTurn s)

/-! ### LIT and UNASSIGNED -/

/-- 42 R155: the symbols `0bbbbbbbb` are LIT; LIT writes its byte at `OUT_POS`, steps `OUT_POS`, and changes nothing else. -/
def Obligations.LitEmitsItsByte : Prop :=
  (∀ b : BitVec 8, decodeSymbol (b.setWidth 9) = .lit b) ∧
  ∀ (b : BitVec 8) (s : State), s.outPos.toNat < s.outLen.toNat →
    ∃ t : State, exec (.lit b) s = .next t ∧
      t = { s with outMem := t.outMem, outPos := s.outPos + 1 } ∧ t.outPos.toNat = s.outPos.toNat + 1 ∧
      ∀ a, t.outMem.read a = if a = s.outPos.toNat then b else s.outMem.read a

/-- 42 R156: an entry with `len` 0 is UNASSIGNED; it writes SYM 0, CLEN 15 and FALLBACK 1, consumes 15 bits, emits 0x00, and changes
nothing else. -/
def Obligations.UnassignedFallsBackToZero : Prop :=
  (∀ e : BitVec 16, entryLen e = 0 → decodeEntry e = .unassigned) ∧
  ∀ s : State, s.outPos.toNat < s.outLen.toNat → accClean s → 15 ≤ s.cnt.toNat →
    ∃ t : State, exec .unassigned s = .next t ∧
      t = { s with
            sym := 0, clen := 15, fallback := true, acc := t.acc, cnt := t.cnt, outMem := t.outMem
            outPos := s.outPos + 1 } ∧
      t.outPos.toNat = s.outPos.toNat + 1 ∧ t.cnt.toNat = s.cnt.toNat - 15 ∧
      advanced s t 15 ∧ accClean t ∧
      ∀ a, t.outMem.read a = if a = s.outPos.toNat then 0 else s.outMem.read a

/-- 20 R51, 00 R9: where OUT has no byte at `OUT_POS`, LIT and UNASSIGNED stop with the fault that names it; the spec says that
this is never issued, and `InvariantRulesOutFaults` says the machine never comes there. The fault is the model's choice
(log 16). -/
def Obligations.LiteralOutsideOutFaults : Prop :=
  ∀ (b : BitVec 8) (s : State), s.outLen.toNat ≤ s.outPos.toNat →
    exec (.lit b) s = .fault .outOfRange ∧ exec .unassigned s = .fault .outOfRange

/-! ### Back-references -/

/-- 43 R180, R174 to R178: MATCH.L3 to MATCH.L17 (the instructions whose length form is `short`) copy `lenSlot + 3` bytes, capped by
the output that remains, from the distance their `oh` and OFFX give; they complete whenever the `oh` bits are there and the source
lies in OUT, and change nothing else. -/
def Obligations.ShortMatchCopies : Prop :=
  ∀ (i : Instr) (lenSlot : Nat) (oh : BitVec 3) (s : State), i.matchForm = some (.short lenSlot, oh) → accClean s →
    oh.toNat ≤ available s → 2 ^ oh.toNat + streamField s 0 oh.toNat ≤ s.outPos.toNat →
    ∃ t : State, exec i s = .next t ∧ copied s t (lenSlot + 3) (2 ^ oh.toNat + streamField s 0 oh.toNat) ∧
      advanced s t oh.toNat ∧ accClean t

/-- 43 R181, R182, R172: MATCH.X and MATCH.XH (the instructions whose length form is `extended`) with `LEN8 < 255` copy `LEN8 + 18`
bytes. -/
def Obligations.ExtendedMatchCopiesByLen8 : Prop :=
  ∀ (i : Instr) (oh : BitVec 3) (s : State), i.matchForm = some (.extended, oh) → accClean s →
    8 + oh.toNat ≤ available s → streamField s 0 8 < 255 →
    2 ^ oh.toNat + streamField s 8 oh.toNat ≤ s.outPos.toNat →
    ∃ t : State, exec i s = .next t ∧
      copied s t (streamField s 0 8 + 18) (2 ^ oh.toNat + streamField s 8 oh.toNat) ∧
      advanced s t (8 + oh.toNat) ∧ accClean t

/-- 43 R181, R182, R173: MATCH.X and MATCH.XH with `LEN8 = 255` copy `LEN16 + 3` bytes. -/
def Obligations.ExtendedMatchCopiesByLen16 : Prop :=
  ∀ (i : Instr) (oh : BitVec 3) (s : State), i.matchForm = some (.extended, oh) → accClean s →
    24 + oh.toNat ≤ available s → streamField s 0 8 = 255 →
    2 ^ oh.toNat + streamField s 24 oh.toNat ≤ s.outPos.toNat →
    ∃ t : State, exec i s = .next t ∧
      copied s t (streamField s 8 16 + 3) (2 ^ oh.toNat + streamField s 24 oh.toNat) ∧
      advanced s t (24 + oh.toNat) ∧ accClean t

/-- 43 R182: the symbols `11kkkkooo` are MATCH.XH, which behaves exactly as MATCH.X with the same `oh`, in every state. -/
def Obligations.MatchXHBehavesAsMatchX : Prop :=
  (∀ σ : BitVec 9, σ.getLsbD 8 = true → σ.getLsbD 7 = true →
    decodeSymbol σ = .matchXH (σ.extractLsb' 3 5) (σ.extractLsb' 0 3)) ∧
  ∀ (lenSlot : BitVec 5) (oh : BitVec 3) (s : State), exec (.matchXH lenSlot oh) s = exec (.matchX oh) s

/-- 43 R174: a back-reference whose OFFX bits are not there ends the job with BITS_OFFSET, with MLEN written and the length fields, if it
has them, consumed: for the short form, for the extended form with `LEN8 < 255`, and for it with `LEN8 = 255`. -/
def Obligations.MissingOffsetBitsStop : Prop :=
  ∀ (i : Instr) (form : LengthForm) (oh : BitVec 3) (s : State), i.matchForm = some (form, oh) → accClean s →
    (∀ lenSlot : Nat, form = .short lenSlot → available s < oh.toNat →
      exec i s = .next (jobEnd .bitsOffset { s with mlen := BitVec.ofNat 17 (lenSlot + 3) })) ∧
    (form = .extended → streamField s 0 8 < 255 → 8 ≤ available s → available s < 8 + oh.toNat →
      ∃ s1 : State, exec i s = .next (jobEnd .bitsOffset s1) ∧ advanced s s1 8 ∧
        s1 = { s with
               acc := s1.acc, cnt := s1.cnt, inPos := s1.inPos
               mlen := BitVec.ofNat 17 (streamField s 0 8 + 18) }) ∧
    (form = .extended → streamField s 0 8 = 255 → 24 ≤ available s → available s < 24 + oh.toNat →
      ∃ s1 : State, exec i s = .next (jobEnd .bitsOffset s1) ∧ advanced s s1 24 ∧
        s1 = { s with
               acc := s1.acc, cnt := s1.cnt, inPos := s1.inPos
               mlen := BitVec.ofNat 17 (streamField s 8 16 + 3) })

/-- 43 R172, R173: an extended match whose LEN8 bits are not there ends the job with BITS_LEN8 and nothing else changed; one whose LEN16
bits are not there, with BITS_LEN16 and LEN8 consumed. -/
def Obligations.MissingLengthBitsStop : Prop :=
  ∀ (i : Instr) (oh : BitVec 3) (s : State), i.matchForm = some (.extended, oh) → accClean s →
    (available s < 8 → exec i s = .next (jobEnd .bitsLen8 s)) ∧
    (8 ≤ available s → available s < 24 → streamField s 0 8 = 255 →
      ∃ s1 : State, exec i s = .next (jobEnd .bitsLen16 s1) ∧
        s1 = { s with acc := s1.acc, cnt := s1.cnt, inPos := s1.inPos } ∧ advanced s s1 8)

/-- 43 R176: a back-reference whose source lies before OUT ends the job with CORRUPT_BACKREF, and nothing is copied: for the short form,
for the extended form with `LEN8 < 255`, and for it with `LEN8 = 255`. -/
def Obligations.SourceBeforeOutStops : Prop :=
  ∀ (i : Instr) (form : LengthForm) (oh : BitVec 3) (s : State), i.matchForm = some (form, oh) → accClean s →
    (∀ lenSlot : Nat, form = .short lenSlot → endsCorrupt i oh s 0 (lenSlot + 3)) ∧
    (form = .extended → streamField s 0 8 < 255 → endsCorrupt i oh s 8 (streamField s 0 8 + 18)) ∧
    (form = .extended → streamField s 0 8 = 255 → endsCorrupt i oh s 24 (streamField s 8 16 + 3))

/-- 43 R179, 60 R203: a back-reference that ends the job, at whichever of its checks, has written no byte of OUT, and `PRODUCED` is
`OUT_POS` as it was before the symbol. -/
def Obligations.StoppedMatchWritesNoByte : Prop :=
  ∀ (i : Instr) (form : LengthForm) (oh : BitVec 3) (s t : State), i.matchForm = some (form, oh) → accClean s →
    s.phase = .busy → exec i s = .next t → t.phase = .done →
    t.outMem = s.outMem ∧ t.outPos = s.outPos ∧ t.produced = s.outPos ∧ t.state = .truncated ∧
      (t.stopReason = .bitsLen8 ∨ t.stopReason = .bitsLen16 ∨ t.stopReason = .bitsOffset ∨
        t.stopReason = .corruptBackref)

/-- 43 R170 to R178, 60 R202: whatever a back-reference does, it answers a next state, changes no register but those it and a job's
end write, and no byte of OUT outside the bytes from the old `OUT_POS` up to the new one. -/
def Obligations.MatchFrame : Prop :=
  ∀ (i : Instr) (form : LengthForm) (oh : BitVec 3) (s : State), i.matchForm = some (form, oh) →
    ∃ t : State, exec i s = .next t ∧
      t = { s with
            acc := t.acc, cnt := t.cnt, inPos := t.inPos, mlen := t.mlen, offset := t.offset, ncopy := t.ncopy
            outPos := t.outPos, outMem := t.outMem, state := t.state, stopReason := t.stopReason
            invalidCodeSeen := t.invalidCodeSeen, produced := t.produced, consumed := t.consumed, chunks := t.chunks
            phase := t.phase } ∧
      s.outPos.toNat ≤ t.outPos.toNat ∧
      ∀ a, ¬(s.outPos.toNat ≤ a ∧ a < t.outPos.toNat) → t.outMem.read a = s.outMem.read a

/-- 43 R177, R185: a completed back-reference copies `NCOPY = min(MLEN, OUT_LEN − OUT_POS)` bytes, moves `OUT_POS` on by as many, at
least 1 and never past `OUT_LEN`, from a distance of 1 to 255. -/
def Obligations.CompletedMatchIsCapped : Prop :=
  ∀ (i : Instr) (form : LengthForm) (oh : BitVec 3) (s t : State), i.matchForm = some (form, oh) → accClean s →
    s.phase = .busy → s.outPos.toNat < s.outLen.toNat → exec i s = .next t → t.phase = .busy →
    t.ncopy.toNat = min t.mlen.toNat (s.outLen.toNat - s.outPos.toNat) ∧
      t.outPos.toNat = s.outPos.toNat + t.ncopy.toNat ∧ s.outPos.toNat < t.outPos.toNat ∧
      t.outPos.toNat ≤ t.outLen.toNat ∧ t.offset.toNat + 1 ≤ 255 ∧ t.offset.toNat + 1 ≤ s.outPos.toNat

/-! ### START and the job -/

/-- 42 R140, R142: an accepted START with input and with IN and OUT apart begins the job: BUSY, positions and counters 0, FALLBACK 0,
every byte of OUT below `OUT_LEN` 0, and nothing else changed. -/
def Obligations.StartBeginsTheJob : Prop :=
  ∀ s : State, s.phase ≠ .busy → s.inLen ≠ 0 → storageOverlaps s = false →
    ∃ t : State, exec .start s = .next t ∧
      t = { s with
            phase := .busy, state := .busy, fallback := false, inPos := 0, outPos := 0, nhdr := 0
            outMem := t.outMem, point := .chunkPass, spoiled := false } ∧
      ∀ a, t.outMem.read a = if a < s.outLen.toNat then 0 else s.outMem.read a

/-- 42 R141: START with `IN_LEN = 0` ends the job at once with INVALID_INPUT, whatever `OUT_LEN` is; OUT is not written, and PRODUCED,
CONSUMED and CHUNKS are 0. -/
def Obligations.StartOnEmptyInputIsInvalid : Prop :=
  ∀ s : State, s.phase ≠ .busy → s.inLen = 0 →
    ∃ t : State, exec .start s = .next t ∧ t.state = .invalidInput ∧ t.stopReason = .invalidInput ∧
      t.phase = .done ∧ t.outMem = s.outMem ∧ t.produced = 0 ∧ t.consumed = 0 ∧ t.chunks = 0 ∧
      t.invalidCodeSeen = false

/-- 10 R22, 42 R140: START while BUSY is ignored. -/
def Obligations.StartWhileBusyIsIgnored : Prop :=
  ∀ s : State, s.phase = .busy → exec .start s = .next s

/-- 93 U5 with 20 R60, 93 U6: START over overlapping storage begins a job whose results are any value; and the core's next turn ends
such a job, with STATE other than BUSY and no register changed but the results. That it ends in one step is the model's choice
(log 6). -/
def Obligations.BrokenContractStillEndsTheJob : Prop :=
  (∀ s : State, s.phase ≠ .busy → s.inLen ≠ 0 → storageOverlaps s = true →
    ∃ t : State, exec .start s = .next t ∧ t.phase = .busy ∧ t.spoiled = true) ∧
  ∀ s : State, coreTurn s → s.phase = .busy → s.spoiled = true →
    ∃ t : State, step s = .next t ∧ t.phase = .done ∧ t.state ≠ .busy ∧ t.spoiled = false ∧
      (∀ a, s.outLen.toNat ≤ a → t.outMem.read a = s.outMem.read a) ∧
      t = { afterTurn s with
            outMem := t.outMem, draws := t.draws, state := t.state, stopReason := t.stopReason
            invalidCodeSeen := t.invalidCodeSeen, produced := t.produced, consumed := t.consumed, chunks := t.chunks
            phase := t.phase, spoiled := t.spoiled }

/-- 42 R143: at the top of a chunk pass, `OUT_POS ≥ OUT_LEN` ends the job COMPLETE with NONE, and no input is read. -/
def Obligations.FullOutputEndsTheJob : Prop :=
  ∀ s : State, coreTurn s → jobRuns s → s.point = .chunkPass → s.outLen.toNat ≤ s.outPos.toNat →
    ∃ t : State, step s = .next t ∧
      t = { afterTurn s with
            state := .complete, stopReason := .none, invalidCodeSeen := s.fallback, produced := s.outPos
            consumed := s.inPos, chunks := s.nhdr, phase := .done }

/-- 42 R144: with output outstanding and fewer than 256 input bytes left, the job stops with HEADER_SHORT and reads none of them. -/
def Obligations.ShortHeaderStopsTheJob : Prop :=
  ∀ s : State, coreTurn s → jobRuns s → s.point = .chunkPass → s.outPos.toNat < s.outLen.toNat →
    s.inLen.toNat - s.inPos.toNat < 256 →
    ∃ t : State, step s = .next t ∧
      t = { afterTurn s with
            state := .truncated, stopReason := .headerShort, invalidCodeSeen := s.fallback, produced := s.outPos
            consumed := s.inPos, chunks := s.nhdr, phase := .done }

/-- 42 R145 to R148: otherwise the chunk pass reads the header's 512 lengths, steps `IN_POS` and `NHDR`, builds TAB from those lengths,
empties the accumulator and sets the chunk's start and bound; COUNT and NEXT are BUILD's, and nothing else changes. -/
def Obligations.ChunkPassOpensTheChunk : Prop :=
  ∀ s : State, coreTurn s → jobRuns s → s.point = .chunkPass → s.outPos.toNat < s.outLen.toNat →
    256 ≤ s.inLen.toNat - s.inPos.toNat →
    ∃ t : State, step s = .next t ∧
      t = { afterTurn s with
            lengths := t.lengths, tab := t.tab, count := t.count, next := t.next
            inPos := t.inPos, nhdr := s.nhdr + 1, acc := 0, cnt := 0
            chunkStart := s.outPos, chunkBound := t.chunkBound, point := .symbolLoop } ∧
      t.inPos.toNat = s.inPos.toNat + 256 ∧
      t.chunkBound.toNat = min 65536 (s.outLen.toNat - s.outPos.toNat) ∧
      (∀ i, i < 256 →
        t.lengths.read (2 * i) = (inRead s (s.inPos.toNat + i)).extractLsb' 0 4 ∧
        t.lengths.read (2 * i + 1) = (inRead s (s.inPos.toNat + i)).extractLsb' 4 4) ∧
      t.tab = (build (readHeader s)).tab

/-- 42 R149: when the chunk has emitted its bound, the loop returns to the chunk pass, with nothing else changed. -/
def Obligations.ChunkEndReturnsToTheChunkPass : Prop :=
  ∀ s : State, coreTurn s → jobRuns s → s.point = .symbolLoop →
    s.chunkBound.toNat ≤ s.outPos.toNat - s.chunkStart.toNat →
    step s = .next { afterTurn s with point := .chunkPass }

/-- 42 R150: a symbol decode that finds fewer than 15 bits ends the job with BITS_SYMBOL; the output produced so far is kept. -/
def Obligations.ShortWindowStopsTheJob : Prop :=
  ∀ s : State, coreTurn s → jobRuns s → s.point = .symbolLoop →
    s.outPos.toNat - s.chunkStart.toNat < s.chunkBound.toNat → accClean s → available s < 15 →
    ∃ t : State, step s = .next t ∧
      t = { afterTurn s with
            state := .truncated, stopReason := .bitsSymbol, invalidCodeSeen := s.fallback, produced := s.outPos
            consumed := s.inPos, chunks := s.nhdr, phase := .done }

/-! ### The bit-stream accumulator -/

/-- 41 R122: `FILL(n)` fails exactly when `CNT < n` and `CNT + 8·(IN_LEN − IN_POS) < n`, and the field it was for then stops in the
state it began in, with `ACC`, `CNT` and `IN_POS` unchanged. -/
def Obligations.FillFailsExactlyWhenBitsRunOut : Prop :=
  ∀ (n : Nat) (s : State), 1 ≤ n → n ≤ 16 →
    (fill n s = none ↔ s.cnt.toNat < n ∧ s.cnt.toNat + 8 * (s.inLen.toNat - s.inPos.toNat) < n) ∧
    (fill n s = none → ∀ r : StopReason, readField n r s = .stopped r s)

/-- 41 R121, 20 R54: a `FILL(n)` that answers `ok` leaves `n ≤ CNT ≤ n + 7` unless it pulled nothing, keeps every bit of the stream, and
changes nothing but the accumulator and `IN_POS`. -/
def Obligations.FillKeepsTheStream : Prop :=
  ∀ (n : Nat) (s t : State), 1 ≤ n → n ≤ 16 → accClean s → fill n s = some t →
    t = { s with acc := t.acc, cnt := t.cnt, inPos := t.inPos } ∧ accClean t ∧ n ≤ t.cnt.toNat ∧
      (n ≤ s.cnt.toNat → t = s) ∧ (s.cnt.toNat < n → t.cnt.toNat ≤ n + 7) ∧
      available t = available s ∧ ∀ j, streamBit t j = streamBit s j

/-! ### The table builder -/

/-- 40 R104, R105: after BUILD, every slot whose top bits are a symbol's canonical code holds that symbol with its length, whatever the
lengths are (so that no placing disturbs another, 40 R108). -/
def Obligations.BuildFillsEverySlotOfEverySymbol : Prop :=
  ∀ (s : State) (sym i : Nat), sym < 512 → i < 32768 → slotOf s.lengths sym i →
    (build s).tab.read i = symbolEntry s.lengths sym

/-- 40 R101, R106: after BUILD, a slot that no symbol's code reaches is unassigned. -/
def Obligations.BuildLeavesOtherSlotsUnassigned : Prop :=
  ∀ (s : State) (i : Nat), i < 32768 → (∀ sym, sym < 512 → ¬slotOf s.lengths sym i) → (build s).tab.read i = 0

/-- 40 R108: no two symbols share a slot, whatever the lengths are. -/
def Obligations.SlotsOfTwoSymbolsAreDisjoint : Prop :=
  ∀ (lengths : Memory 4) (sym sym' i : Nat), sym < 512 → sym' < 512 → i < 32768 →
    slotOf lengths sym i → slotOf lengths sym' i → sym = sym'

/-- 40 R109: of two symbols of the same nonzero length, the smaller has the smaller code, and every slot that holds it lies below every
slot that holds the other. -/
def Obligations.SmallerSymbolHasSmallerCode : Prop :=
  ∀ (s : State) (sym sym' : Nat), sym < sym' → sym' < 512 → s.lengths.read sym = s.lengths.read sym' →
    s.lengths.read sym ≠ 0 →
    canonicalCode s.lengths sym < canonicalCode s.lengths sym' ∧
    ∀ i i', i < 32768 → i' < 32768 → (build s).tab.read i = symbolEntry s.lengths sym →
      (build s).tab.read i' = symbolEntry s.lengths sym' → i < i'

/-- 40 R107: a symbol whose code does not fit its length is in no slot. -/
def Obligations.OversubscribedSymbolIsInNoSlot : Prop :=
  ∀ (s : State) (sym i : Nat), sym < 512 → 0 < (s.lengths.read sym).toNat →
    2 ^ (s.lengths.read sym).toNat ≤ canonicalCode s.lengths sym → i < 32768 →
    (build s).tab.read i ≠ symbolEntry s.lengths sym

/-- 40 R111: a code that fills the space exactly leaves no slot unassigned; that no code outgrows its length follows from the sum and
is not asked for. -/
def Obligations.CompleteCodeLeavesNoSlotUnassigned : Prop :=
  ∀ s : State,
    ((List.range' 1 15).map fun len => countOf s.lengths len * 2 ^ (15 - len)).sum = 2 ^ 15 →
    ∀ i, i < 32768 → entryLen ((build s).tab.read i) ≠ 0

/-- 40 R110: BUILD writes TAB, COUNT and NEXT alone, and what it leaves there depends on the 512 lengths alone. -/
def Obligations.BuildIsPure : Prop :=
  ∀ s t : State, (∀ sym, sym < 512 → s.lengths.read sym = t.lengths.read sym) →
    (∀ i, i < 32768 → (build s).tab.read i = (build t).tab.read i) ∧
    (∀ len, 1 ≤ len → len ≤ 15 → (build s).count.read len = (build t).count.read len ∧
      (build s).next.read len = (build t).next.read len) ∧
    build s = { s with tab := (build s).tab, count := (build s).count, next := (build s).next }

/-- 42 R159: a header that gives lengths to literals alone makes a TAB whose every entry is a literal or unassigned. -/
def Obligations.LiteralOnlyHeaderNeverCopies : Prop :=
  ∀ s : State, (∀ sym, 256 ≤ sym → sym < 512 → s.lengths.read sym = 0) →
    ∀ i, i < 32768 → decodeEntry ((build s).tab.read i) = .unassigned ∨
      ∃ b : BitVec 8, decodeEntry ((build s).tab.read i) = .lit b

/-! ### The host's accesses -/

/-- 10 R23, 70 R240: a STATUS read is defined in every state: each field in its bits, and 0 in bits 3, 7 and 31:9.
That what a read gets stands in `hostData` is the model's choice (log 2). -/
def Obligations.StatusReadShowsTheFields : Prop :=
  ∀ (s : State) (rest : List HostEvent), s.host = .regRead (s.placement.regBase + 4) 4 :: rest →
    ∃ t : State, step s = .next t ∧ t = { s with host := rest, hostData := t.hostData } ∧
      t.hostData.extractLsb' 0 3 = s.state.code ∧ t.hostData.getLsbD 3 = false ∧
      t.hostData.extractLsb' 4 3 = s.stopReason.code ∧ t.hostData.getLsbD 7 = false ∧
      t.hostData.getLsbD 8 = s.invalidCodeSeen ∧ t.hostData.extractLsb' 9 23 = 0

/-- 10 R21, R24 to R26: while STATE is not BUSY, IN_LEN, OUT_LEN, PRODUCED, CONSUMED and CHUNKS read as they are; while it is BUSY, a read
of the last three completes too, with nothing said of its value. That what a read gets stands in `hostData` is the model's choice
(log 2). -/
def Obligations.RegisterReadsGiveTheRegisters : Prop :=
  ∀ (s : State) (rest : List HostEvent) (offset : Nat), s.host = .regRead (s.placement.regBase + offset) 4 :: rest →
    (offset = 8 → step s = .next { s with host := rest, hostData := s.inLen }) ∧
    (offset = 12 → step s = .next { s with host := rest, hostData := s.outLen }) ∧
    (offset = 16 → s.state ≠ .busy → step s = .next { s with host := rest, hostData := s.produced }) ∧
    (offset = 20 → s.state ≠ .busy → step s = .next { s with host := rest, hostData := s.consumed }) ∧
    (offset = 24 → s.state ≠ .busy → step s = .next { s with host := rest, hostData := s.chunks }) ∧
    (offset = 16 ∨ offset = 20 ∨ offset = 24 → s.state = .busy →
      ∃ t : State, step s = .next t ∧ t = { s with host := rest, hostData := t.hostData, draws := t.draws })

/-- 10 R21 to R23: CTRL and the reserved offsets read 0, and a write to STATUS, to a result register or to a reserved offset is
ignored. That every aligned offset from 28 on, without an end, is a reserved offset is the model's choice (log 9): 10 R21 reserves
0x1C and above only up to the platform's decode window, whose size it leaves open. -/
def Obligations.ReservedOffsetsReadZeroAndIgnoreWrites : Prop :=
  ∀ (s : State) (rest : List HostEvent) (offset : Nat), offset % 4 = 0 →
    (offset = 0 ∨ 28 ≤ offset → s.host = .regRead (s.placement.regBase + offset) 4 :: rest →
      step s = .next { s with host := rest, hostData := 0 }) ∧
    ∀ v : BitVec 32, offset = 4 ∨ 16 ≤ offset → s.host = .regWrite (s.placement.regBase + offset) 4 v :: rest →
      step s = .next { s with host := rest }

/-- 10 R24, R25: a write of IN_LEN or OUT_LEN lands while STATE is not BUSY, and is ignored while it is BUSY. -/
def Obligations.LengthWritesLandOnlyWhenNotBusy : Prop :=
  ∀ (s : State) (rest : List HostEvent) (v : BitVec 32),
    (s.host = .regWrite (s.placement.regBase + 8) 4 v :: rest →
      step s = .next (if s.state = .busy then { s with host := rest } else { s with host := rest, inLen := v })) ∧
    (s.host = .regWrite (s.placement.regBase + 12) 4 v :: rest →
      step s = .next (if s.state = .busy then { s with host := rest } else { s with host := rest, outLen := v }))

/-- 10 R21, 93 U10: a register access that is not an aligned 32-bit access is refused. That alignment is the offset's, and that
offsets have no end, is the model's choice (log 9). -/
def Obligations.OtherRegisterAccessesAreRefused : Prop :=
  ∀ (s : State) (rest : List HostEvent) (offset bytes : Nat) (v : BitVec 32), bytes ≠ 4 ∨ offset % 4 ≠ 0 →
    (s.host = .regRead (s.placement.regBase + offset) bytes :: rest → step s = .refused .accessWidth) ∧
    (s.host = .regWrite (s.placement.regBase + offset) bytes v :: rest → step s = .refused .accessWidth)

/-- 10 R37, 70 R240, 93 U6, 93 U12: a host write of a byte of IN lands in IN, and one of OUT in OUT; while STATE is not BUSY it changes
nothing else, and while it is BUSY it also marks the running job as one whose results are any value (log 6;
`BrokenContractStillEndsTheJob` says what becomes of it); 93 U6 leaves every OUT byte of such a job open, and that the byte the host
wrote stands in OUT until the job ends is the model's choice too. That an offset at or above `IN_LEN` or `OUT_LEN` is written, and
marks the job, as one below does is the model's choice (log 23). -/
def Obligations.HostWritesIn : Prop :=
  ∀ (s : State) (rest : List HostEvent) (a : Nat) (v : BitVec 8), a < 2 ^ 32 →
    (s.host = .inWrite (s.placement.inBase + a) v :: rest →
      ∃ t : State, step s = .next t ∧
        t = { s with host := rest, inMem := t.inMem, spoiled := s.spoiled || decide (s.state = .busy) } ∧
        ∀ b, t.inMem.read b = if b = a then v else s.inMem.read b) ∧
    (s.host = .outWrite (s.placement.outBase + a) v :: rest →
      ∃ t : State, step s = .next t ∧
        t = { s with host := rest, outMem := t.outMem, spoiled := s.spoiled || decide (s.state = .busy) } ∧
        ∀ b, t.outMem.read b = if b = a then v else s.outMem.read b)

/-- 10 R37, 20 R65, 93 U4: a host read of OUT gives the byte while STATE is not BUSY; while it is BUSY the read completes, does not
disturb the job, and nothing is said of the byte. That the byte stands zero-extended in `hostData` is the model's choice (log 2,
log 21), and so is that an offset at or above `OUT_LEN` reads as one below it does (log 23). -/
def Obligations.HostReadsOut : Prop :=
  ∀ (s : State) (rest : List HostEvent) (a : Nat), a < 2 ^ 32 → s.host = .outRead (s.placement.outBase + a) :: rest →
    ∃ t : State, step s = .next t ∧ t = { s with host := rest, hostData := t.hostData, draws := t.draws } ∧
      (s.state ≠ .busy → t.hostData = (s.outMem.read a).setWidth 32)

/-- 70 R230, 10 R36: the platform's reset, in any state, leaves the registers at the values the spec gives, IN as it was, and OUT as it
was unless a job ran. The last clause, that the storage at and above `OUT_LEN` is as it was even after a reset while BUSY, is the
model's choice (log 7): the spec says only that the OUT bytes of an abandoned job are unspecified. -/
def Obligations.ResetEventRestoresTheRegisters : Prop :=
  ∀ (s : State) (rest : List HostEvent), s.host = .reset :: rest →
    ∃ t : State, step s = .next t ∧ t.host = rest ∧ t.phase = .idle ∧ t.state = .idle ∧ t.stopReason = .none ∧
      t.invalidCodeSeen = false ∧ t.inLen = 0 ∧ t.outLen = 0 ∧ t.produced = 0 ∧ t.consumed = 0 ∧ t.chunks = 0 ∧
      t.fallback = false ∧ t.inMem = s.inMem ∧ (s.state ≠ .busy → t.outMem = s.outMem) ∧
      ∀ a, s.outLen.toNat ≤ a → t.outMem.read a = s.outMem.read a

/-- 10 R36, 70 R230: what reset leaves, where the spec gives the value; a STATUS read is then 0. -/
def Obligations.ResetValues : Prop :=
  State.reset.state = .idle ∧ State.reset.stopReason = .none ∧ State.reset.invalidCodeSeen = false ∧
    State.reset.inLen = 0 ∧ State.reset.outLen = 0 ∧ State.reset.produced = 0 ∧ State.reset.consumed = 0 ∧
    State.reset.chunks = 0 ∧ State.reset.phase = .idle ∧ State.reset.fallback = false ∧ statusWord State.reset = 0

/-! ### The whole machine -/

/-- The invariant holds at reset. It rests on values that are the model's choice: 10 R36 leaves ACC, CNT and TAB unspecified, and log 3
puts them at 0; no job is marked as spoiled (log 6); and the memories have the model's form (log 14). -/
def Obligations.ResetSatisfiesTheInvariant : Prop := State.reset.Inv

/-- Every step of the machine, whoever's turn it is, keeps the invariant: the accumulator's (10 R29), the phase's (10 R35), the
positions' (10 R27, R28), the chunk's, the zero tail of OUT (60 R203), the format of TAB's entries (30 R75), and the canonical form and the
bounds of every memory. Where the step is the platform's reset, the clauses of ACC and CNT and of TAB's entries are kept only because of
the model's choice of 0 for them (log 3): 10 R36 leaves them unspecified there, and the spec derives 10 R29 from a chunk's start and has
TAB's entries from BUILD. The clause of the `spoiled` mark (log 6), the place in the loops that the chunk's clause names (log 15) and
the canonical form and the bounds of the memories (log 14, log 9) are the model's own. -/
def Obligations.EveryStepKeepsTheInvariant : Prop :=
  ∀ s t : State, s.Inv → step s = .next t → t.Inv

/-- 20 R51, 42 R160, 30 R80: from a state of the invariant no step faults, and the core's turn always completes. -/
def Obligations.InvariantRulesOutFaults : Prop :=
  ∀ s : State, s.Inv → (∀ f, step s ≠ .fault f) ∧ (coreTurn s → ∃ t, step s = .next t)

/-- 42 R157, 70 R251: a job that START began, undisturbed by the host, ends with STATE not BUSY, in a run of the core with at most
`OUT_LEN` symbol decodes and at most `IN_LEN / 256 + 1` chunk passes: termination on any input. The length of that run,
`OUT_LEN + 2 · (IN_LEN / 256) + 1` steps, counts the model's steps, a symbol decode, a chunk pass and a return to the chunk pass being
one each; that is the model's choice (log 1), and so is that a job over overlapping storage ends in one step (log 6). -/
def Obligations.EveryJobTerminates : Prop :=
  ∀ s t : State, s.Inv → s.phase ≠ .busy → s.host = [] → exec .start s = .next t →
    ∀ steps : Nat, steps = s.outLen.toNat + 2 * (s.inLen.toNat / 256) + 1 →
      (∃ u : State, run steps t = .next u ∧ u.phase = .done ∧ u.state ≠ .busy) ∧
      countSteps atSymbolDecode steps t ≤ s.outLen.toNat ∧
      countSteps atChunkPass steps t ≤ s.inLen.toNat / 256 + 1

/-- 70 R235, 60 R207: a job's result depends on `IN_LEN`, `OUT_LEN` and the bytes of IN alone: two machines that agree on these, whatever
else an earlier job left behind in either, go through the same phases step by step (steps as the model counts them, log 1), and when
their jobs end they show the same STATUS, the same result registers and the same OUT. -/
def Obligations.JobResultDependsOnTheInputAlone : Prop :=
  ∀ (s s' t t' u u' : State) (k : Nat), s.phase ≠ .busy → s'.phase ≠ .busy → s.host = [] → s'.host = [] →
    s.inLen ≠ 0 → s.inLen = s'.inLen → s.outLen = s'.outLen →
    (∀ a, a < s.inLen.toNat → s.inMem.read a = s'.inMem.read a) →
    storageOverlaps s = false → storageOverlaps s' = false →
    exec .start s = .next t → exec .start s' = .next t' → run k t = .next u → run k t' = .next u' →
    u.phase = u'.phase ∧
    (u.phase = .done →
      statusWord u = statusWord u' ∧ u.produced = u'.produced ∧ u.consumed = u'.consumed ∧ u.chunks = u'.chunks ∧
      ∀ a, a < s.outLen.toNat → u.outMem.read a = u'.outMem.read a)

/-- 60 R202: however a running job ends, STATE is the one that its stop reason stands for, and INVALID_CODE_SEEN, PRODUCED, CONSUMED and
CHUNKS are FALLBACK, `OUT_POS`, `IN_POS` and `NHDR`. -/
def Obligations.JobEndRecordsTheResult : Prop :=
  ∀ s t : State, coreTurn s → jobRuns s → step s = .next t → t.phase = .done →
    t.state = t.stopReason.result ∧ t.invalidCodeSeen = t.fallback ∧ t.produced = t.outPos ∧ t.consumed = t.inPos ∧
      t.chunks = t.nhdr

/-- 70 R235, 60 R214: while no job runs, nothing but a START or a reset changes STATUS, PRODUCED, CONSUMED, CHUNKS or PHASE, and nothing
but those and a host write to OUT changes OUT. -/
def Obligations.ResultsStayUntilTheNextStart : Prop :=
  ∀ s t : State, s.phase ≠ .busy → step s = .next t →
    (∀ rest, s.host ≠ .reset :: rest) →
    (∀ bytes v rest, s.host = .regWrite s.placement.regBase bytes v :: rest → v.getLsbD 0 = false) →
    t.state = s.state ∧ t.stopReason = s.stopReason ∧ t.invalidCodeSeen = s.invalidCodeSeen ∧
      t.produced = s.produced ∧ t.consumed = s.consumed ∧ t.chunks = s.chunks ∧ t.phase = s.phase ∧
      ((∀ addr v rest, s.host ≠ .outWrite addr v :: rest) → t.outMem = s.outMem)

/-- 60 R201, R203: a job that ends TRUNCATED has produced less than `OUT_LEN`, one that ends COMPLETE exactly `OUT_LEN`, and what it has
not produced reads 0x00. -/
def Obligations.EndedJobLeavesItsPrefixAndZeros : Prop :=
  ∀ s t : State, s.Inv → coreTurn s → jobRuns s → step s = .next t → t.phase = .done →
    (t.state = .truncated ∧ t.produced.toNat < t.outLen.toNat ∨ t.state = .complete ∧ t.produced = t.outLen) ∧
    ∀ a, t.produced.toNat ≤ a → a < t.outLen.toNat → t.outMem.read a = 0

/-- 20 R64, 60 R203: an operation of the job writes OUT from the old `OUT_POS` up to the new one and nowhere else, and never past
`OUT_LEN`. -/
def Obligations.OutputIsWrittenLeftToRight : Prop :=
  ∀ s t : State, s.Inv → coreTurn s → jobRuns s → step s = .next t →
    s.outPos.toNat ≤ t.outPos.toNat ∧ t.outPos.toNat ≤ s.outLen.toNat ∧
      ∀ a, a < s.outPos.toNat ∨ t.outPos.toNat ≤ a → t.outMem.read a = s.outMem.read a

/-- 20 R50, R63, R68; 41 R126: an operation of the job never writes IN, never changes `IN_LEN`, `OUT_LEN` or the placement, and never moves
`IN_POS` back or past `IN_LEN`. -/
def Obligations.InputIsReadForwardOnly : Prop :=
  ∀ s t : State, s.Inv → coreTurn s → jobRuns s → step s = .next t →
    t.inMem = s.inMem ∧ t.inLen = s.inLen ∧ t.outLen = s.outLen ∧ t.placement = s.placement ∧
      s.inPos.toNat ≤ t.inPos.toNat ∧ t.inPos.toNat ≤ s.inLen.toNat
end

