-- ==== Sys2Proof/Laws/Memory.lean ====
section
/-! SUPPORT. The laws of memory: what one cell reads as after each operation, and that every operation keeps the
canonical form. The read laws hold of every memory, canonical or not. -/

namespace Sys2Proof.Laws
open Sys2Proof.Machine

variable {w : Nat}

/-! ### Cell lists -/

theorem lookup_cell_cons (a b : Nat) (v : BitVec w) (l : List (Nat × BitVec w)) :
    ((b, v) :: l).lookup a = if a = b then some v else l.lookup a := by
  by_cases h : a = b
  · simp [h]
  · have h' : (a == b) = false := by simpa using h
    simp [List.lookup_cons, h', h]

theorem lookup_filter_key (p : Nat → Bool) (a : Nat) (l : List (Nat × BitVec w)) :
    (l.filter fun c => p c.1).lookup a = if p a then l.lookup a else none := by
  induction l with
  | nil => simp
  | cons c l ih =>
    obtain ⟨b, v⟩ := c
    by_cases hp : p b
    · rw [List.filter_cons_of_pos (by exact hp), lookup_cell_cons, lookup_cell_cons, ih]
      by_cases hab : a = b
      · subst hab; simp [hp]
      · simp [hab]
    · rw [List.filter_cons_of_neg (by exact hp), ih, lookup_cell_cons]
      by_cases hab : a = b
      · subst hab; simp [hp]
      · simp [hab]

theorem lookup_eraseCell (a b : Nat) (l : List (Nat × BitVec w)) :
    (eraseCell a l).lookup b = if b = a then none else l.lookup b := by
  rw [eraseCell, lookup_filter_key (fun x => x != a)]
  by_cases h : b = a <;> simp [h]

theorem lookup_insertCell (a b : Nat) (v : BitVec w) (l : List (Nat × BitVec w)) (h : l.lookup a = none) :
    (insertCell a v l).lookup b = if b = a then some v else l.lookup b := by
  induction l with
  | nil => rw [insertCell, lookup_cell_cons]
  | cons c l ih =>
    obtain ⟨x, u⟩ := c
    rw [lookup_cell_cons] at h
    have hx : a ≠ x := by rintro rfl; simp at h
    rw [if_neg hx] at h
    by_cases hlt : a < x
    · simp only [insertCell, hlt, if_true, lookup_cell_cons]
    · simp only [insertCell, hlt, if_false, lookup_cell_cons, ih h]
      by_cases hbx : b = x
      · subst hbx; simp [Ne.symm hx]
      · simp [hbx]

theorem lookup_map_pair (f : Nat → BitVec w) (a : Nat) (l : List Nat) :
    (l.map fun b => (b, f b)).lookup a = if a ∈ l then some (f a) else none := by
  induction l with
  | nil => simp
  | cons b l ih =>
    rw [List.map_cons, lookup_cell_cons, ih]
    by_cases h : a = b
    · subst h; simp
    · simp [h]

theorem lookup_append_cells (a : Nat) (l r : List (Nat × BitVec w)) :
    (l ++ r).lookup a = (l.lookup a).or (r.lookup a) := by
  induction l with
  | nil => simp
  | cons c l ih =>
    obtain ⟨b, v⟩ := c
    rw [List.cons_append, lookup_cell_cons, lookup_cell_cons, ih]
    by_cases h : a = b <;> simp [h]

/-! ### Reads -/

@[simp] theorem read_nil (a : Nat) : (⟨[]⟩ : Memory w).read a = 0 := rfl

/-- A read after a write: the written cell reads the value, every other cell reads what it read. -/
theorem read_write (m : Memory w) (a b : Nat) (v : BitVec w) :
    (m.write a v).read b = if b = a then v else m.read b := by
  unfold Memory.write Memory.read
  by_cases hv : v = Memory.unlisted w
  · by_cases hb : b = a <;> simp [hv, lookup_eraseCell, hb]
  · have he : (eraseCell a m.cells).lookup a = none := by simp [lookup_eraseCell]
    by_cases hb : b = a <;> simp [hv, lookup_insertCell _ _ _ _ he, lookup_eraseCell, hb]

@[simp] theorem read_write_same (m : Memory w) (a : Nat) (v : BitVec w) : (m.write a v).read a = v := by
  simp [read_write]

theorem read_write_other (m : Memory w) {a b : Nat} (v : BitVec w) (h : b ≠ a) : (m.write a v).read b = m.read b := by
  simp [read_write, h]

theorem read_clearBelow (m : Memory w) (n a : Nat) : (m.clearBelow n).read a = if a < n then 0 else m.read a := by
  unfold Memory.clearBelow Memory.read
  simp only [lookup_filter_key (fun x => decide (n ≤ x))]
  by_cases h : a < n
  · simp [h, Nat.not_le.2 h, Memory.unlisted]
  · simp [h, Nat.le_of_not_lt h]

theorem read_fillRange (m : Memory w) (lo n a : Nat) (v : BitVec w) :
    (m.fillRange lo n v).read a = if lo ≤ a ∧ a < lo + n then v else m.read a := by
  unfold Memory.fillRange Memory.read
  simp only [lookup_append_cells, lookup_filter_key (fun x => decide (x < lo)),
    lookup_filter_key (fun x => decide (lo + n ≤ x))]
  by_cases hv : v = Memory.unlisted w
  · rw [if_pos hv]
    rcases Nat.lt_or_ge a lo with h | h
    · simp [h, Nat.not_le.2 h, show ¬ lo + n ≤ a by omega]
    · by_cases h2 : a < lo + n
      · simp [h, h2, Nat.not_lt.2 h, Nat.not_le.2 h2, hv]
      · simp [h2, Nat.not_lt.2 h, Nat.le_of_not_lt h2]
  · rw [if_neg hv]
    have key := lookup_map_pair (fun _ => v) a (List.range' lo n)
    simp only [List.mem_range'_1] at key
    rw [key]
    rcases Nat.lt_or_ge a lo with h | h
    · simp [h, Nat.not_le.2 h, show ¬ lo + n ≤ a by omega]
    · by_cases h2 : a < lo + n
      · simp [h, h2, Nat.not_lt.2 h]
      · simp [h2, Nat.not_lt.2 h, Nat.le_of_not_lt h2]

theorem read_drawBelow (m : Memory w) (n a : Nat) (f : Nat → BitVec w) :
    (m.drawBelow n f).read a = if a < n then f a else m.read a := by
  unfold Memory.drawBelow Memory.read
  simp only [lookup_append_cells, lookup_filter_key (fun x => decide (n ≤ x)), lookup_map_pair, List.mem_filter,
    List.mem_range]
  by_cases h : a < n
  · by_cases hf : f a = Memory.unlisted w <;> simp [h, hf, Nat.not_le.2 h]
  · simp [h, Nat.le_of_not_lt h]

/-! ### The canonical form -/

theorem wf_nil : (⟨[]⟩ : Memory w).wf := by simp [Memory.wf]

theorem pairwise_insertCell (a : Nat) (v : BitVec w) (l : List (Nat × BitVec w))
    (h : l.Pairwise fun c d => c.1 < d.1) (ha : ∀ c ∈ l, c.1 ≠ a) :
    (insertCell a v l).Pairwise fun c d => c.1 < d.1 := by
  induction l with
  | nil => simp [insertCell]
  | cons c l ih =>
    rw [List.pairwise_cons] at h
    by_cases hlt : a < c.1
    · simp only [insertCell, hlt, if_true, List.pairwise_cons, List.mem_cons]
      exact ⟨by rintro d (rfl | hd); exacts [hlt, hlt.trans (h.1 d hd)], h.1, h.2⟩
    · simp only [insertCell, hlt, if_false, List.pairwise_cons]
      refine ⟨fun d hd => ?_, ih h.2 fun d hd => ha d (by simp [hd])⟩
      have hd' : d = (a, v) ∨ d ∈ l := by
        clear ih h ha
        induction l with
        | nil => simpa [insertCell] using hd
        | cons e l ih =>
          by_cases he : a < e.1
          · simpa [insertCell, he] using hd
          · simp only [insertCell, he, if_false, List.mem_cons] at hd ⊢
            rcases hd with rfl | hd
            · exact .inr (.inl rfl)
            · rcases ih hd with h | h
              exacts [.inl h, .inr (.inr h)]
      rcases hd' with rfl | hd'
      · have := ha c (by simp); simp only; omega
      · exact h.1 d hd'

theorem mem_insertCell (a : Nat) (v : BitVec w) (l : List (Nat × BitVec w)) (c : Nat × BitVec w) :
    c ∈ insertCell a v l ↔ c = (a, v) ∨ c ∈ l := by
  induction l with
  | nil => simp [insertCell]
  | cons d l ih =>
    by_cases h : a < d.1
    · simp [insertCell, h]
    · simp only [insertCell, h, if_false, List.mem_cons, ih]; tauto

theorem wf_write {m : Memory w} (h : m.wf) (a : Nat) (v : BitVec w) : (m.write a v).wf := by
  have he : (eraseCell a m.cells).Pairwise fun c d => c.1 < d.1 := h.1.filter _
  have hm : ∀ c ∈ eraseCell a m.cells, c ∈ m.cells ∧ c.1 ≠ a := fun c hc => by
    simpa [eraseCell] using hc
  by_cases hv : v = Memory.unlisted w
  · simp only [Memory.write, if_pos hv]
    exact ⟨he, fun c hc => h.2 c (hm c hc).1⟩
  · simp only [Memory.write, if_neg hv]
    refine ⟨pairwise_insertCell _ _ _ he fun c hc => (hm c hc).2, fun c hc => ?_⟩
    rcases (mem_insertCell _ _ _ _).1 hc with rfl | hc
    exacts [hv, h.2 c (hm c hc).1]

theorem wf_clearBelow {m : Memory w} (h : m.wf) (n : Nat) : (m.clearBelow n).wf :=
  ⟨h.1.filter _, fun c hc => h.2 c (List.mem_of_mem_filter hc)⟩

theorem wf_fillRange {m : Memory w} (h : m.wf) (lo n : Nat) (v : BitVec w) : (m.fillRange lo n v).wf := by
  by_cases hv : v = Memory.unlisted w
  · simp only [Memory.fillRange, if_pos hv]
    constructor
    · simp only [List.append_nil, List.pairwise_append, List.mem_filter, decide_eq_true_eq]
      exact ⟨h.1.filter _, h.1.filter _, fun c hc d hd => by omega⟩
    · intro c hc
      simp only [List.append_nil, List.mem_append, List.mem_filter] at hc
      rcases hc with hc | hc <;> exact h.2 c hc.1
  · simp only [Memory.fillRange, if_neg hv]
    constructor
    · simp only [List.pairwise_append, List.mem_filter, decide_eq_true_eq, List.mem_append, List.mem_map,
        List.mem_range'_1, List.pairwise_map]
      refine ⟨⟨h.1.filter _, List.pairwise_lt_range', ?_⟩, h.1.filter _, ?_⟩
      · rintro c hc d ⟨b, hb, rfl⟩; omega
      · rintro c (hc | ⟨b, hb, rfl⟩) d hd
        · omega
        · omega
    · intro c hc
      simp only [List.mem_append, List.mem_filter, List.mem_map] at hc
      rcases hc with (hc | ⟨b, _, rfl⟩) | hc
      exacts [h.2 c hc.1, hv, h.2 c hc.1]

theorem wf_drawBelow {m : Memory w} (h : m.wf) (n : Nat) (f : Nat → BitVec w) : (m.drawBelow n f).wf := by
  unfold Memory.drawBelow
  constructor
  · simp only [List.pairwise_append, List.mem_filter, decide_eq_true_eq, List.mem_map, List.mem_range,
      List.pairwise_map]
    refine ⟨List.pairwise_lt_range.filter _, h.1.filter _, ?_⟩
    rintro c ⟨b, hb, rfl⟩ d hd
    omega
  · intro c hc
    simp only [List.mem_append, List.mem_filter, List.mem_map] at hc
    rcases hc with ⟨b, hb, rfl⟩ | hc
    · simpa using hb.2
    · exact h.2 c hc.1

/-- A cell list in canonical order finds each of its own cells. -/
theorem lookup_of_mem {l : List (Nat × BitVec w)} (h : l.Pairwise fun c d => c.1 < d.1) {c : Nat × BitVec w}
    (hc : c ∈ l) : l.lookup c.1 = some c.2 := by
  induction l with
  | nil => simp at hc
  | cons d l ih =>
    obtain ⟨b, u⟩ := d
    rw [List.pairwise_cons] at h
    rw [lookup_cell_cons]
    rcases List.mem_cons.1 hc with rfl | hc
    · simp
    · have : c.1 ≠ b := by have := h.1 c hc; simp only at this; omega
      rw [if_neg this, ih h.2 hc]

theorem mem_of_lookup {l : List (Nat × BitVec w)} {a : Nat} {v : BitVec w} (h : l.lookup a = some v) : (a, v) ∈ l := by
  induction l with
  | nil => simp at h
  | cons c l ih =>
    obtain ⟨b, u⟩ := c
    rw [lookup_cell_cons] at h
    by_cases hab : a = b
    · subst hab; simp at h; simp [h]
    · exact List.mem_cons_of_mem _ (ih (by simpa [hab] using h))

/-- The cells of a canonical memory are the addresses that do not read 0. -/
theorem mem_cells_iff {m : Memory w} (h : m.wf) (c : Nat × BitVec w) :
    c ∈ m.cells ↔ m.read c.1 = c.2 ∧ c.2 ≠ 0 := by
  constructor
  · intro hc
    exact ⟨by simp [Memory.read, lookup_of_mem h.1 hc], h.2 c hc⟩
  · rintro ⟨hr, hv⟩
    unfold Memory.read at hr
    cases hl : m.cells.lookup c.1 with
    | none => rw [hl] at hr; exact absurd hr.symm hv
    | some v => rw [hl] at hr; subst hr; exact mem_of_lookup hl

/-- Two canonical memories that read alike everywhere are equal. -/
theorem memory_ext {m n : Memory w} (hm : m.wf) (hn : n.wf) (h : ∀ a, m.read a = n.read a) : m = n := by
  have hp : ∀ c, c ∈ m.cells ↔ c ∈ n.cells := fun c => by rw [mem_cells_iff hm, mem_cells_iff hn, h]
  have hperm : m.cells.Perm n.cells := by
    refine (List.perm_ext_iff_of_nodup ?_ ?_).2 hp
    · exact hm.1.imp fun h e => by subst e; omega
    · exact hn.1.imp fun h e => by subst e; omega
  have : m.cells = n.cells := hperm.eq_of_pairwise (fun c d _ _ h1 h2 => by omega) hm.1 hn.1
  cases m; cases n; simpa using this

end Sys2Proof.Laws
end

