-- ==== Sys2Proof/Laws/State.lean ====
section
/-! SUPPORT. One lemma for each field and each named update of State, so that no proof unfolds an update: what the field
holds after it. -/

namespace Sys2Proof.Laws
open Sys2Proof.Machine

variable (s : State)

/-! ### outWrite -/

@[simp] theorem outWrite_state (a : Nat) (v : BitVec 8) : (outWrite a v s).state = s.state := rfl
@[simp] theorem outWrite_stopReason (a : Nat) (v : BitVec 8) : (outWrite a v s).stopReason = s.stopReason := rfl
@[simp] theorem outWrite_invalidCodeSeen (a : Nat) (v : BitVec 8) : (outWrite a v s).invalidCodeSeen = s.invalidCodeSeen := rfl
@[simp] theorem outWrite_inLen (a : Nat) (v : BitVec 8) : (outWrite a v s).inLen = s.inLen := rfl
@[simp] theorem outWrite_outLen (a : Nat) (v : BitVec 8) : (outWrite a v s).outLen = s.outLen := rfl
@[simp] theorem outWrite_produced (a : Nat) (v : BitVec 8) : (outWrite a v s).produced = s.produced := rfl
@[simp] theorem outWrite_consumed (a : Nat) (v : BitVec 8) : (outWrite a v s).consumed = s.consumed := rfl
@[simp] theorem outWrite_chunks (a : Nat) (v : BitVec 8) : (outWrite a v s).chunks = s.chunks := rfl
@[simp] theorem outWrite_acc (a : Nat) (v : BitVec 8) : (outWrite a v s).acc = s.acc := rfl
@[simp] theorem outWrite_cnt (a : Nat) (v : BitVec 8) : (outWrite a v s).cnt = s.cnt := rfl
@[simp] theorem outWrite_inPos (a : Nat) (v : BitVec 8) : (outWrite a v s).inPos = s.inPos := rfl
@[simp] theorem outWrite_outPos (a : Nat) (v : BitVec 8) : (outWrite a v s).outPos = s.outPos := rfl
@[simp] theorem outWrite_chunkStart (a : Nat) (v : BitVec 8) : (outWrite a v s).chunkStart = s.chunkStart := rfl
@[simp] theorem outWrite_chunkBound (a : Nat) (v : BitVec 8) : (outWrite a v s).chunkBound = s.chunkBound := rfl
@[simp] theorem outWrite_sym (a : Nat) (v : BitVec 8) : (outWrite a v s).sym = s.sym := rfl
@[simp] theorem outWrite_clen (a : Nat) (v : BitVec 8) : (outWrite a v s).clen = s.clen := rfl
@[simp] theorem outWrite_mlen (a : Nat) (v : BitVec 8) : (outWrite a v s).mlen = s.mlen := rfl
@[simp] theorem outWrite_offset (a : Nat) (v : BitVec 8) : (outWrite a v s).offset = s.offset := rfl
@[simp] theorem outWrite_ncopy (a : Nat) (v : BitVec 8) : (outWrite a v s).ncopy = s.ncopy := rfl
@[simp] theorem outWrite_nhdr (a : Nat) (v : BitVec 8) : (outWrite a v s).nhdr = s.nhdr := rfl
@[simp] theorem outWrite_phase (a : Nat) (v : BitVec 8) : (outWrite a v s).phase = s.phase := rfl
@[simp] theorem outWrite_fallback (a : Nat) (v : BitVec 8) : (outWrite a v s).fallback = s.fallback := rfl
@[simp] theorem outWrite_lengths (a : Nat) (v : BitVec 8) : (outWrite a v s).lengths = s.lengths := rfl
@[simp] theorem outWrite_tab (a : Nat) (v : BitVec 8) : (outWrite a v s).tab = s.tab := rfl
@[simp] theorem outWrite_count (a : Nat) (v : BitVec 8) : (outWrite a v s).count = s.count := rfl
@[simp] theorem outWrite_next (a : Nat) (v : BitVec 8) : (outWrite a v s).next = s.next := rfl
@[simp] theorem outWrite_inMem (a : Nat) (v : BitVec 8) : (outWrite a v s).inMem = s.inMem := rfl
@[simp] theorem outWrite_outMem (a : Nat) (v : BitVec 8) : (outWrite a v s).outMem = s.outMem.write a v := rfl
@[simp] theorem outWrite_placement (a : Nat) (v : BitVec 8) : (outWrite a v s).placement = s.placement := rfl
@[simp] theorem outWrite_point (a : Nat) (v : BitVec 8) : (outWrite a v s).point = s.point := rfl
@[simp] theorem outWrite_spoiled (a : Nat) (v : BitVec 8) : (outWrite a v s).spoiled = s.spoiled := rfl
@[simp] theorem outWrite_host (a : Nat) (v : BitVec 8) : (outWrite a v s).host = s.host := rfl
@[simp] theorem outWrite_hostData (a : Nat) (v : BitVec 8) : (outWrite a v s).hostData = s.hostData := rfl
@[simp] theorem outWrite_draws (a : Nat) (v : BitVec 8) : (outWrite a v s).draws = s.draws := rfl

/-! ### emitByte -/

@[simp] theorem emitByte_state (b : BitVec 8) : (emitByte b s).state = s.state := rfl
@[simp] theorem emitByte_stopReason (b : BitVec 8) : (emitByte b s).stopReason = s.stopReason := rfl
@[simp] theorem emitByte_invalidCodeSeen (b : BitVec 8) : (emitByte b s).invalidCodeSeen = s.invalidCodeSeen := rfl
@[simp] theorem emitByte_inLen (b : BitVec 8) : (emitByte b s).inLen = s.inLen := rfl
@[simp] theorem emitByte_outLen (b : BitVec 8) : (emitByte b s).outLen = s.outLen := rfl
@[simp] theorem emitByte_produced (b : BitVec 8) : (emitByte b s).produced = s.produced := rfl
@[simp] theorem emitByte_consumed (b : BitVec 8) : (emitByte b s).consumed = s.consumed := rfl
@[simp] theorem emitByte_chunks (b : BitVec 8) : (emitByte b s).chunks = s.chunks := rfl
@[simp] theorem emitByte_acc (b : BitVec 8) : (emitByte b s).acc = s.acc := rfl
@[simp] theorem emitByte_cnt (b : BitVec 8) : (emitByte b s).cnt = s.cnt := rfl
@[simp] theorem emitByte_inPos (b : BitVec 8) : (emitByte b s).inPos = s.inPos := rfl
@[simp] theorem emitByte_outPos (b : BitVec 8) : (emitByte b s).outPos = s.outPos + 1 := rfl
@[simp] theorem emitByte_chunkStart (b : BitVec 8) : (emitByte b s).chunkStart = s.chunkStart := rfl
@[simp] theorem emitByte_chunkBound (b : BitVec 8) : (emitByte b s).chunkBound = s.chunkBound := rfl
@[simp] theorem emitByte_sym (b : BitVec 8) : (emitByte b s).sym = s.sym := rfl
@[simp] theorem emitByte_clen (b : BitVec 8) : (emitByte b s).clen = s.clen := rfl
@[simp] theorem emitByte_mlen (b : BitVec 8) : (emitByte b s).mlen = s.mlen := rfl
@[simp] theorem emitByte_offset (b : BitVec 8) : (emitByte b s).offset = s.offset := rfl
@[simp] theorem emitByte_ncopy (b : BitVec 8) : (emitByte b s).ncopy = s.ncopy := rfl
@[simp] theorem emitByte_nhdr (b : BitVec 8) : (emitByte b s).nhdr = s.nhdr := rfl
@[simp] theorem emitByte_phase (b : BitVec 8) : (emitByte b s).phase = s.phase := rfl
@[simp] theorem emitByte_fallback (b : BitVec 8) : (emitByte b s).fallback = s.fallback := rfl
@[simp] theorem emitByte_lengths (b : BitVec 8) : (emitByte b s).lengths = s.lengths := rfl
@[simp] theorem emitByte_tab (b : BitVec 8) : (emitByte b s).tab = s.tab := rfl
@[simp] theorem emitByte_count (b : BitVec 8) : (emitByte b s).count = s.count := rfl
@[simp] theorem emitByte_next (b : BitVec 8) : (emitByte b s).next = s.next := rfl
@[simp] theorem emitByte_inMem (b : BitVec 8) : (emitByte b s).inMem = s.inMem := rfl
@[simp] theorem emitByte_outMem (b : BitVec 8) : (emitByte b s).outMem = s.outMem.write s.outPos.toNat b := rfl
@[simp] theorem emitByte_placement (b : BitVec 8) : (emitByte b s).placement = s.placement := rfl
@[simp] theorem emitByte_point (b : BitVec 8) : (emitByte b s).point = s.point := rfl
@[simp] theorem emitByte_spoiled (b : BitVec 8) : (emitByte b s).spoiled = s.spoiled := rfl
@[simp] theorem emitByte_host (b : BitVec 8) : (emitByte b s).host = s.host := rfl
@[simp] theorem emitByte_hostData (b : BitVec 8) : (emitByte b s).hostData = s.hostData := rfl
@[simp] theorem emitByte_draws (b : BitVec 8) : (emitByte b s).draws = s.draws := rfl

/-! ### setFallback -/

@[simp] theorem setFallback_state : (setFallback s).state = s.state := rfl
@[simp] theorem setFallback_stopReason : (setFallback s).stopReason = s.stopReason := rfl
@[simp] theorem setFallback_invalidCodeSeen : (setFallback s).invalidCodeSeen = s.invalidCodeSeen := rfl
@[simp] theorem setFallback_inLen : (setFallback s).inLen = s.inLen := rfl
@[simp] theorem setFallback_outLen : (setFallback s).outLen = s.outLen := rfl
@[simp] theorem setFallback_produced : (setFallback s).produced = s.produced := rfl
@[simp] theorem setFallback_consumed : (setFallback s).consumed = s.consumed := rfl
@[simp] theorem setFallback_chunks : (setFallback s).chunks = s.chunks := rfl
@[simp] theorem setFallback_acc : (setFallback s).acc = s.acc := rfl
@[simp] theorem setFallback_cnt : (setFallback s).cnt = s.cnt := rfl
@[simp] theorem setFallback_inPos : (setFallback s).inPos = s.inPos := rfl
@[simp] theorem setFallback_outPos : (setFallback s).outPos = s.outPos := rfl
@[simp] theorem setFallback_chunkStart : (setFallback s).chunkStart = s.chunkStart := rfl
@[simp] theorem setFallback_chunkBound : (setFallback s).chunkBound = s.chunkBound := rfl
@[simp] theorem setFallback_sym : (setFallback s).sym = s.sym := rfl
@[simp] theorem setFallback_clen : (setFallback s).clen = s.clen := rfl
@[simp] theorem setFallback_mlen : (setFallback s).mlen = s.mlen := rfl
@[simp] theorem setFallback_offset : (setFallback s).offset = s.offset := rfl
@[simp] theorem setFallback_ncopy : (setFallback s).ncopy = s.ncopy := rfl
@[simp] theorem setFallback_nhdr : (setFallback s).nhdr = s.nhdr := rfl
@[simp] theorem setFallback_phase : (setFallback s).phase = s.phase := rfl
@[simp] theorem setFallback_fallback : (setFallback s).fallback = true := rfl
@[simp] theorem setFallback_lengths : (setFallback s).lengths = s.lengths := rfl
@[simp] theorem setFallback_tab : (setFallback s).tab = s.tab := rfl
@[simp] theorem setFallback_count : (setFallback s).count = s.count := rfl
@[simp] theorem setFallback_next : (setFallback s).next = s.next := rfl
@[simp] theorem setFallback_inMem : (setFallback s).inMem = s.inMem := rfl
@[simp] theorem setFallback_outMem : (setFallback s).outMem = s.outMem := rfl
@[simp] theorem setFallback_placement : (setFallback s).placement = s.placement := rfl
@[simp] theorem setFallback_point : (setFallback s).point = s.point := rfl
@[simp] theorem setFallback_spoiled : (setFallback s).spoiled = s.spoiled := rfl
@[simp] theorem setFallback_host : (setFallback s).host = s.host := rfl
@[simp] theorem setFallback_hostData : (setFallback s).hostData = s.hostData := rfl
@[simp] theorem setFallback_draws : (setFallback s).draws = s.draws := rfl

/-! ### jobEnd -/

@[simp] theorem jobEnd_state (r : StopReason) : (jobEnd r s).state = r.result := rfl
@[simp] theorem jobEnd_stopReason (r : StopReason) : (jobEnd r s).stopReason = r := rfl
@[simp] theorem jobEnd_invalidCodeSeen (r : StopReason) : (jobEnd r s).invalidCodeSeen = s.fallback := rfl
@[simp] theorem jobEnd_inLen (r : StopReason) : (jobEnd r s).inLen = s.inLen := rfl
@[simp] theorem jobEnd_outLen (r : StopReason) : (jobEnd r s).outLen = s.outLen := rfl
@[simp] theorem jobEnd_produced (r : StopReason) : (jobEnd r s).produced = s.outPos := rfl
@[simp] theorem jobEnd_consumed (r : StopReason) : (jobEnd r s).consumed = s.inPos := rfl
@[simp] theorem jobEnd_chunks (r : StopReason) : (jobEnd r s).chunks = s.nhdr := rfl
@[simp] theorem jobEnd_acc (r : StopReason) : (jobEnd r s).acc = s.acc := rfl
@[simp] theorem jobEnd_cnt (r : StopReason) : (jobEnd r s).cnt = s.cnt := rfl
@[simp] theorem jobEnd_inPos (r : StopReason) : (jobEnd r s).inPos = s.inPos := rfl
@[simp] theorem jobEnd_outPos (r : StopReason) : (jobEnd r s).outPos = s.outPos := rfl
@[simp] theorem jobEnd_chunkStart (r : StopReason) : (jobEnd r s).chunkStart = s.chunkStart := rfl
@[simp] theorem jobEnd_chunkBound (r : StopReason) : (jobEnd r s).chunkBound = s.chunkBound := rfl
@[simp] theorem jobEnd_sym (r : StopReason) : (jobEnd r s).sym = s.sym := rfl
@[simp] theorem jobEnd_clen (r : StopReason) : (jobEnd r s).clen = s.clen := rfl
@[simp] theorem jobEnd_mlen (r : StopReason) : (jobEnd r s).mlen = s.mlen := rfl
@[simp] theorem jobEnd_offset (r : StopReason) : (jobEnd r s).offset = s.offset := rfl
@[simp] theorem jobEnd_ncopy (r : StopReason) : (jobEnd r s).ncopy = s.ncopy := rfl
@[simp] theorem jobEnd_nhdr (r : StopReason) : (jobEnd r s).nhdr = s.nhdr := rfl
@[simp] theorem jobEnd_phase (r : StopReason) : (jobEnd r s).phase = .done := rfl
@[simp] theorem jobEnd_fallback (r : StopReason) : (jobEnd r s).fallback = s.fallback := rfl
@[simp] theorem jobEnd_lengths (r : StopReason) : (jobEnd r s).lengths = s.lengths := rfl
@[simp] theorem jobEnd_tab (r : StopReason) : (jobEnd r s).tab = s.tab := rfl
@[simp] theorem jobEnd_count (r : StopReason) : (jobEnd r s).count = s.count := rfl
@[simp] theorem jobEnd_next (r : StopReason) : (jobEnd r s).next = s.next := rfl
@[simp] theorem jobEnd_inMem (r : StopReason) : (jobEnd r s).inMem = s.inMem := rfl
@[simp] theorem jobEnd_outMem (r : StopReason) : (jobEnd r s).outMem = s.outMem := rfl
@[simp] theorem jobEnd_placement (r : StopReason) : (jobEnd r s).placement = s.placement := rfl
@[simp] theorem jobEnd_point (r : StopReason) : (jobEnd r s).point = s.point := rfl
@[simp] theorem jobEnd_spoiled (r : StopReason) : (jobEnd r s).spoiled = s.spoiled := rfl
@[simp] theorem jobEnd_host (r : StopReason) : (jobEnd r s).host = s.host := rfl
@[simp] theorem jobEnd_hostData (r : StopReason) : (jobEnd r s).hostData = s.hostData := rfl
@[simp] theorem jobEnd_draws (r : StopReason) : (jobEnd r s).draws = s.draws := rfl

/-! ### drawOut -/

@[simp] theorem drawOut_state : (drawOut s).state = s.state := rfl
@[simp] theorem drawOut_stopReason : (drawOut s).stopReason = s.stopReason := rfl
@[simp] theorem drawOut_invalidCodeSeen : (drawOut s).invalidCodeSeen = s.invalidCodeSeen := rfl
@[simp] theorem drawOut_inLen : (drawOut s).inLen = s.inLen := rfl
@[simp] theorem drawOut_outLen : (drawOut s).outLen = s.outLen := rfl
@[simp] theorem drawOut_produced : (drawOut s).produced = s.produced := rfl
@[simp] theorem drawOut_consumed : (drawOut s).consumed = s.consumed := rfl
@[simp] theorem drawOut_chunks : (drawOut s).chunks = s.chunks := rfl
@[simp] theorem drawOut_acc : (drawOut s).acc = s.acc := rfl
@[simp] theorem drawOut_cnt : (drawOut s).cnt = s.cnt := rfl
@[simp] theorem drawOut_inPos : (drawOut s).inPos = s.inPos := rfl
@[simp] theorem drawOut_outPos : (drawOut s).outPos = s.outPos := rfl
@[simp] theorem drawOut_chunkStart : (drawOut s).chunkStart = s.chunkStart := rfl
@[simp] theorem drawOut_chunkBound : (drawOut s).chunkBound = s.chunkBound := rfl
@[simp] theorem drawOut_sym : (drawOut s).sym = s.sym := rfl
@[simp] theorem drawOut_clen : (drawOut s).clen = s.clen := rfl
@[simp] theorem drawOut_mlen : (drawOut s).mlen = s.mlen := rfl
@[simp] theorem drawOut_offset : (drawOut s).offset = s.offset := rfl
@[simp] theorem drawOut_ncopy : (drawOut s).ncopy = s.ncopy := rfl
@[simp] theorem drawOut_nhdr : (drawOut s).nhdr = s.nhdr := rfl
@[simp] theorem drawOut_phase : (drawOut s).phase = s.phase := rfl
@[simp] theorem drawOut_fallback : (drawOut s).fallback = s.fallback := rfl
@[simp] theorem drawOut_lengths : (drawOut s).lengths = s.lengths := rfl
@[simp] theorem drawOut_tab : (drawOut s).tab = s.tab := rfl
@[simp] theorem drawOut_count : (drawOut s).count = s.count := rfl
@[simp] theorem drawOut_next : (drawOut s).next = s.next := rfl
@[simp] theorem drawOut_inMem : (drawOut s).inMem = s.inMem := rfl
@[simp] theorem drawOut_outMem : (drawOut s).outMem = s.outMem.drawBelow s.outLen.toNat (Config.freeByte s.draws) := rfl
@[simp] theorem drawOut_placement : (drawOut s).placement = s.placement := rfl
@[simp] theorem drawOut_point : (drawOut s).point = s.point := rfl
@[simp] theorem drawOut_spoiled : (drawOut s).spoiled = s.spoiled := rfl
@[simp] theorem drawOut_host : (drawOut s).host = s.host := rfl
@[simp] theorem drawOut_hostData : (drawOut s).hostData = s.hostData := rfl
@[simp] theorem drawOut_draws : (drawOut s).draws = s.draws + 1 := rfl

/-! ### jobEndSpoiled -/

@[simp] theorem jobEndSpoiled_state : (jobEndSpoiled s).state = freeState (Config.freeWord s.draws) := rfl
@[simp] theorem jobEndSpoiled_stopReason : (jobEndSpoiled s).stopReason = freeReason (Config.freeWord s.draws) := rfl
@[simp] theorem jobEndSpoiled_invalidCodeSeen : (jobEndSpoiled s).invalidCodeSeen = (Config.freeWord s.draws).getLsbD 5 := rfl
@[simp] theorem jobEndSpoiled_inLen : (jobEndSpoiled s).inLen = s.inLen := rfl
@[simp] theorem jobEndSpoiled_outLen : (jobEndSpoiled s).outLen = s.outLen := rfl
@[simp] theorem jobEndSpoiled_produced : (jobEndSpoiled s).produced = Config.freeWord (s.draws + 1) := rfl
@[simp] theorem jobEndSpoiled_consumed : (jobEndSpoiled s).consumed = Config.freeWord (s.draws + 2) := rfl
@[simp] theorem jobEndSpoiled_chunks : (jobEndSpoiled s).chunks = Config.freeWord (s.draws + 3) := rfl
@[simp] theorem jobEndSpoiled_acc : (jobEndSpoiled s).acc = s.acc := rfl
@[simp] theorem jobEndSpoiled_cnt : (jobEndSpoiled s).cnt = s.cnt := rfl
@[simp] theorem jobEndSpoiled_inPos : (jobEndSpoiled s).inPos = s.inPos := rfl
@[simp] theorem jobEndSpoiled_outPos : (jobEndSpoiled s).outPos = s.outPos := rfl
@[simp] theorem jobEndSpoiled_chunkStart : (jobEndSpoiled s).chunkStart = s.chunkStart := rfl
@[simp] theorem jobEndSpoiled_chunkBound : (jobEndSpoiled s).chunkBound = s.chunkBound := rfl
@[simp] theorem jobEndSpoiled_sym : (jobEndSpoiled s).sym = s.sym := rfl
@[simp] theorem jobEndSpoiled_clen : (jobEndSpoiled s).clen = s.clen := rfl
@[simp] theorem jobEndSpoiled_mlen : (jobEndSpoiled s).mlen = s.mlen := rfl
@[simp] theorem jobEndSpoiled_offset : (jobEndSpoiled s).offset = s.offset := rfl
@[simp] theorem jobEndSpoiled_ncopy : (jobEndSpoiled s).ncopy = s.ncopy := rfl
@[simp] theorem jobEndSpoiled_nhdr : (jobEndSpoiled s).nhdr = s.nhdr := rfl
@[simp] theorem jobEndSpoiled_phase : (jobEndSpoiled s).phase = .done := rfl
@[simp] theorem jobEndSpoiled_fallback : (jobEndSpoiled s).fallback = s.fallback := rfl
@[simp] theorem jobEndSpoiled_lengths : (jobEndSpoiled s).lengths = s.lengths := rfl
@[simp] theorem jobEndSpoiled_tab : (jobEndSpoiled s).tab = s.tab := rfl
@[simp] theorem jobEndSpoiled_count : (jobEndSpoiled s).count = s.count := rfl
@[simp] theorem jobEndSpoiled_next : (jobEndSpoiled s).next = s.next := rfl
@[simp] theorem jobEndSpoiled_inMem : (jobEndSpoiled s).inMem = s.inMem := rfl
@[simp] theorem jobEndSpoiled_outMem : (jobEndSpoiled s).outMem = s.outMem.drawBelow s.outLen.toNat (Config.freeByte s.draws) := rfl
@[simp] theorem jobEndSpoiled_placement : (jobEndSpoiled s).placement = s.placement := rfl
@[simp] theorem jobEndSpoiled_point : (jobEndSpoiled s).point = s.point := rfl
@[simp] theorem jobEndSpoiled_spoiled : (jobEndSpoiled s).spoiled = false := rfl
@[simp] theorem jobEndSpoiled_host : (jobEndSpoiled s).host = s.host := rfl
@[simp] theorem jobEndSpoiled_hostData : (jobEndSpoiled s).hostData = s.hostData := rfl
@[simp] theorem jobEndSpoiled_draws : (jobEndSpoiled s).draws = s.draws + 4 := rfl

/-! ### pullByte -/

@[simp] theorem pullByte_state : (pullByte s).state = s.state := rfl
@[simp] theorem pullByte_stopReason : (pullByte s).stopReason = s.stopReason := rfl
@[simp] theorem pullByte_invalidCodeSeen : (pullByte s).invalidCodeSeen = s.invalidCodeSeen := rfl
@[simp] theorem pullByte_inLen : (pullByte s).inLen = s.inLen := rfl
@[simp] theorem pullByte_outLen : (pullByte s).outLen = s.outLen := rfl
@[simp] theorem pullByte_produced : (pullByte s).produced = s.produced := rfl
@[simp] theorem pullByte_consumed : (pullByte s).consumed = s.consumed := rfl
@[simp] theorem pullByte_chunks : (pullByte s).chunks = s.chunks := rfl
@[simp] theorem pullByte_acc : (pullByte s).acc = s.acc ||| ((inRead s s.inPos.toNat).setWidth 64 <<< s.cnt.toNat) := rfl
@[simp] theorem pullByte_cnt : (pullByte s).cnt = s.cnt + 8 := rfl
@[simp] theorem pullByte_inPos : (pullByte s).inPos = s.inPos + 1 := rfl
@[simp] theorem pullByte_outPos : (pullByte s).outPos = s.outPos := rfl
@[simp] theorem pullByte_chunkStart : (pullByte s).chunkStart = s.chunkStart := rfl
@[simp] theorem pullByte_chunkBound : (pullByte s).chunkBound = s.chunkBound := rfl
@[simp] theorem pullByte_sym : (pullByte s).sym = s.sym := rfl
@[simp] theorem pullByte_clen : (pullByte s).clen = s.clen := rfl
@[simp] theorem pullByte_mlen : (pullByte s).mlen = s.mlen := rfl
@[simp] theorem pullByte_offset : (pullByte s).offset = s.offset := rfl
@[simp] theorem pullByte_ncopy : (pullByte s).ncopy = s.ncopy := rfl
@[simp] theorem pullByte_nhdr : (pullByte s).nhdr = s.nhdr := rfl
@[simp] theorem pullByte_phase : (pullByte s).phase = s.phase := rfl
@[simp] theorem pullByte_fallback : (pullByte s).fallback = s.fallback := rfl
@[simp] theorem pullByte_lengths : (pullByte s).lengths = s.lengths := rfl
@[simp] theorem pullByte_tab : (pullByte s).tab = s.tab := rfl
@[simp] theorem pullByte_count : (pullByte s).count = s.count := rfl
@[simp] theorem pullByte_next : (pullByte s).next = s.next := rfl
@[simp] theorem pullByte_inMem : (pullByte s).inMem = s.inMem := rfl
@[simp] theorem pullByte_outMem : (pullByte s).outMem = s.outMem := rfl
@[simp] theorem pullByte_placement : (pullByte s).placement = s.placement := rfl
@[simp] theorem pullByte_point : (pullByte s).point = s.point := rfl
@[simp] theorem pullByte_spoiled : (pullByte s).spoiled = s.spoiled := rfl
@[simp] theorem pullByte_host : (pullByte s).host = s.host := rfl
@[simp] theorem pullByte_hostData : (pullByte s).hostData = s.hostData := rfl
@[simp] theorem pullByte_draws : (pullByte s).draws = s.draws := rfl

/-! ### consume -/

@[simp] theorem consume_state (n : Nat) : (consume n s).state = s.state := rfl
@[simp] theorem consume_stopReason (n : Nat) : (consume n s).stopReason = s.stopReason := rfl
@[simp] theorem consume_invalidCodeSeen (n : Nat) : (consume n s).invalidCodeSeen = s.invalidCodeSeen := rfl
@[simp] theorem consume_inLen (n : Nat) : (consume n s).inLen = s.inLen := rfl
@[simp] theorem consume_outLen (n : Nat) : (consume n s).outLen = s.outLen := rfl
@[simp] theorem consume_produced (n : Nat) : (consume n s).produced = s.produced := rfl
@[simp] theorem consume_consumed (n : Nat) : (consume n s).consumed = s.consumed := rfl
@[simp] theorem consume_chunks (n : Nat) : (consume n s).chunks = s.chunks := rfl
@[simp] theorem consume_acc (n : Nat) : (consume n s).acc = s.acc >>> n := rfl
@[simp] theorem consume_cnt (n : Nat) : (consume n s).cnt = s.cnt - BitVec.ofNat 7 n := rfl
@[simp] theorem consume_inPos (n : Nat) : (consume n s).inPos = s.inPos := rfl
@[simp] theorem consume_outPos (n : Nat) : (consume n s).outPos = s.outPos := rfl
@[simp] theorem consume_chunkStart (n : Nat) : (consume n s).chunkStart = s.chunkStart := rfl
@[simp] theorem consume_chunkBound (n : Nat) : (consume n s).chunkBound = s.chunkBound := rfl
@[simp] theorem consume_sym (n : Nat) : (consume n s).sym = s.sym := rfl
@[simp] theorem consume_clen (n : Nat) : (consume n s).clen = s.clen := rfl
@[simp] theorem consume_mlen (n : Nat) : (consume n s).mlen = s.mlen := rfl
@[simp] theorem consume_offset (n : Nat) : (consume n s).offset = s.offset := rfl
@[simp] theorem consume_ncopy (n : Nat) : (consume n s).ncopy = s.ncopy := rfl
@[simp] theorem consume_nhdr (n : Nat) : (consume n s).nhdr = s.nhdr := rfl
@[simp] theorem consume_phase (n : Nat) : (consume n s).phase = s.phase := rfl
@[simp] theorem consume_fallback (n : Nat) : (consume n s).fallback = s.fallback := rfl
@[simp] theorem consume_lengths (n : Nat) : (consume n s).lengths = s.lengths := rfl
@[simp] theorem consume_tab (n : Nat) : (consume n s).tab = s.tab := rfl
@[simp] theorem consume_count (n : Nat) : (consume n s).count = s.count := rfl
@[simp] theorem consume_next (n : Nat) : (consume n s).next = s.next := rfl
@[simp] theorem consume_inMem (n : Nat) : (consume n s).inMem = s.inMem := rfl
@[simp] theorem consume_outMem (n : Nat) : (consume n s).outMem = s.outMem := rfl
@[simp] theorem consume_placement (n : Nat) : (consume n s).placement = s.placement := rfl
@[simp] theorem consume_point (n : Nat) : (consume n s).point = s.point := rfl
@[simp] theorem consume_spoiled (n : Nat) : (consume n s).spoiled = s.spoiled := rfl
@[simp] theorem consume_host (n : Nat) : (consume n s).host = s.host := rfl
@[simp] theorem consume_hostData (n : Nat) : (consume n s).hostData = s.hostData := rfl
@[simp] theorem consume_draws (n : Nat) : (consume n s).draws = s.draws := rfl

/-! ### bsReset -/

@[simp] theorem bsReset_state : (bsReset s).state = s.state := rfl
@[simp] theorem bsReset_stopReason : (bsReset s).stopReason = s.stopReason := rfl
@[simp] theorem bsReset_invalidCodeSeen : (bsReset s).invalidCodeSeen = s.invalidCodeSeen := rfl
@[simp] theorem bsReset_inLen : (bsReset s).inLen = s.inLen := rfl
@[simp] theorem bsReset_outLen : (bsReset s).outLen = s.outLen := rfl
@[simp] theorem bsReset_produced : (bsReset s).produced = s.produced := rfl
@[simp] theorem bsReset_consumed : (bsReset s).consumed = s.consumed := rfl
@[simp] theorem bsReset_chunks : (bsReset s).chunks = s.chunks := rfl
@[simp] theorem bsReset_acc : (bsReset s).acc = 0 := rfl
@[simp] theorem bsReset_cnt : (bsReset s).cnt = 0 := rfl
@[simp] theorem bsReset_inPos : (bsReset s).inPos = s.inPos := rfl
@[simp] theorem bsReset_outPos : (bsReset s).outPos = s.outPos := rfl
@[simp] theorem bsReset_chunkStart : (bsReset s).chunkStart = s.chunkStart := rfl
@[simp] theorem bsReset_chunkBound : (bsReset s).chunkBound = s.chunkBound := rfl
@[simp] theorem bsReset_sym : (bsReset s).sym = s.sym := rfl
@[simp] theorem bsReset_clen : (bsReset s).clen = s.clen := rfl
@[simp] theorem bsReset_mlen : (bsReset s).mlen = s.mlen := rfl
@[simp] theorem bsReset_offset : (bsReset s).offset = s.offset := rfl
@[simp] theorem bsReset_ncopy : (bsReset s).ncopy = s.ncopy := rfl
@[simp] theorem bsReset_nhdr : (bsReset s).nhdr = s.nhdr := rfl
@[simp] theorem bsReset_phase : (bsReset s).phase = s.phase := rfl
@[simp] theorem bsReset_fallback : (bsReset s).fallback = s.fallback := rfl
@[simp] theorem bsReset_lengths : (bsReset s).lengths = s.lengths := rfl
@[simp] theorem bsReset_tab : (bsReset s).tab = s.tab := rfl
@[simp] theorem bsReset_count : (bsReset s).count = s.count := rfl
@[simp] theorem bsReset_next : (bsReset s).next = s.next := rfl
@[simp] theorem bsReset_inMem : (bsReset s).inMem = s.inMem := rfl
@[simp] theorem bsReset_outMem : (bsReset s).outMem = s.outMem := rfl
@[simp] theorem bsReset_placement : (bsReset s).placement = s.placement := rfl
@[simp] theorem bsReset_point : (bsReset s).point = s.point := rfl
@[simp] theorem bsReset_spoiled : (bsReset s).spoiled = s.spoiled := rfl
@[simp] theorem bsReset_host : (bsReset s).host = s.host := rfl
@[simp] theorem bsReset_hostData : (bsReset s).hostData = s.hostData := rfl
@[simp] theorem bsReset_draws : (bsReset s).draws = s.draws := rfl

/-! ### lookUp -/

@[simp] theorem lookUp_state : (lookUp s).state = s.state := rfl
@[simp] theorem lookUp_stopReason : (lookUp s).stopReason = s.stopReason := rfl
@[simp] theorem lookUp_invalidCodeSeen : (lookUp s).invalidCodeSeen = s.invalidCodeSeen := rfl
@[simp] theorem lookUp_inLen : (lookUp s).inLen = s.inLen := rfl
@[simp] theorem lookUp_outLen : (lookUp s).outLen = s.outLen := rfl
@[simp] theorem lookUp_produced : (lookUp s).produced = s.produced := rfl
@[simp] theorem lookUp_consumed : (lookUp s).consumed = s.consumed := rfl
@[simp] theorem lookUp_chunks : (lookUp s).chunks = s.chunks := rfl
@[simp] theorem lookUp_acc : (lookUp s).acc = s.acc := rfl
@[simp] theorem lookUp_cnt : (lookUp s).cnt = s.cnt := rfl
@[simp] theorem lookUp_inPos : (lookUp s).inPos = s.inPos := rfl
@[simp] theorem lookUp_outPos : (lookUp s).outPos = s.outPos := rfl
@[simp] theorem lookUp_chunkStart : (lookUp s).chunkStart = s.chunkStart := rfl
@[simp] theorem lookUp_chunkBound : (lookUp s).chunkBound = s.chunkBound := rfl
@[simp] theorem lookUp_sym : (lookUp s).sym = entrySym (tabRead s (peek 15 s).toNat) := rfl
@[simp] theorem lookUp_clen : (lookUp s).clen = entryLen (tabRead s (peek 15 s).toNat) := rfl
@[simp] theorem lookUp_mlen : (lookUp s).mlen = s.mlen := rfl
@[simp] theorem lookUp_offset : (lookUp s).offset = s.offset := rfl
@[simp] theorem lookUp_ncopy : (lookUp s).ncopy = s.ncopy := rfl
@[simp] theorem lookUp_nhdr : (lookUp s).nhdr = s.nhdr := rfl
@[simp] theorem lookUp_phase : (lookUp s).phase = s.phase := rfl
@[simp] theorem lookUp_fallback : (lookUp s).fallback = s.fallback := rfl
@[simp] theorem lookUp_lengths : (lookUp s).lengths = s.lengths := rfl
@[simp] theorem lookUp_tab : (lookUp s).tab = s.tab := rfl
@[simp] theorem lookUp_count : (lookUp s).count = s.count := rfl
@[simp] theorem lookUp_next : (lookUp s).next = s.next := rfl
@[simp] theorem lookUp_inMem : (lookUp s).inMem = s.inMem := rfl
@[simp] theorem lookUp_outMem : (lookUp s).outMem = s.outMem := rfl
@[simp] theorem lookUp_placement : (lookUp s).placement = s.placement := rfl
@[simp] theorem lookUp_point : (lookUp s).point = s.point := rfl
@[simp] theorem lookUp_spoiled : (lookUp s).spoiled = s.spoiled := rfl
@[simp] theorem lookUp_host : (lookUp s).host = s.host := rfl
@[simp] theorem lookUp_hostData : (lookUp s).hostData = s.hostData := rfl
@[simp] theorem lookUp_draws : (lookUp s).draws = s.draws := rfl

/-! ### openChunk -/

@[simp] theorem openChunk_state : (openChunk s).state = s.state := rfl
@[simp] theorem openChunk_stopReason : (openChunk s).stopReason = s.stopReason := rfl
@[simp] theorem openChunk_invalidCodeSeen : (openChunk s).invalidCodeSeen = s.invalidCodeSeen := rfl
@[simp] theorem openChunk_inLen : (openChunk s).inLen = s.inLen := rfl
@[simp] theorem openChunk_outLen : (openChunk s).outLen = s.outLen := rfl
@[simp] theorem openChunk_produced : (openChunk s).produced = s.produced := rfl
@[simp] theorem openChunk_consumed : (openChunk s).consumed = s.consumed := rfl
@[simp] theorem openChunk_chunks : (openChunk s).chunks = s.chunks := rfl
@[simp] theorem openChunk_acc : (openChunk s).acc = s.acc := rfl
@[simp] theorem openChunk_cnt : (openChunk s).cnt = s.cnt := rfl
@[simp] theorem openChunk_inPos : (openChunk s).inPos = s.inPos := rfl
@[simp] theorem openChunk_outPos : (openChunk s).outPos = s.outPos := rfl
@[simp] theorem openChunk_chunkStart : (openChunk s).chunkStart = s.outPos := rfl
@[simp] theorem openChunk_chunkBound : (openChunk s).chunkBound = BitVec.ofNat 17 (min Config.chunkOut (s.outLen.toNat - s.outPos.toNat)) := rfl
@[simp] theorem openChunk_sym : (openChunk s).sym = s.sym := rfl
@[simp] theorem openChunk_clen : (openChunk s).clen = s.clen := rfl
@[simp] theorem openChunk_mlen : (openChunk s).mlen = s.mlen := rfl
@[simp] theorem openChunk_offset : (openChunk s).offset = s.offset := rfl
@[simp] theorem openChunk_ncopy : (openChunk s).ncopy = s.ncopy := rfl
@[simp] theorem openChunk_nhdr : (openChunk s).nhdr = s.nhdr := rfl
@[simp] theorem openChunk_phase : (openChunk s).phase = s.phase := rfl
@[simp] theorem openChunk_fallback : (openChunk s).fallback = s.fallback := rfl
@[simp] theorem openChunk_lengths : (openChunk s).lengths = s.lengths := rfl
@[simp] theorem openChunk_tab : (openChunk s).tab = s.tab := rfl
@[simp] theorem openChunk_count : (openChunk s).count = s.count := rfl
@[simp] theorem openChunk_next : (openChunk s).next = s.next := rfl
@[simp] theorem openChunk_inMem : (openChunk s).inMem = s.inMem := rfl
@[simp] theorem openChunk_outMem : (openChunk s).outMem = s.outMem := rfl
@[simp] theorem openChunk_placement : (openChunk s).placement = s.placement := rfl
@[simp] theorem openChunk_point : (openChunk s).point = .symbolLoop := rfl
@[simp] theorem openChunk_spoiled : (openChunk s).spoiled = s.spoiled := rfl
@[simp] theorem openChunk_host : (openChunk s).host = s.host := rfl
@[simp] theorem openChunk_hostData : (openChunk s).hostData = s.hostData := rfl
@[simp] theorem openChunk_draws : (openChunk s).draws = s.draws := rfl

/-! ### beginJob -/

@[simp] theorem beginJob_state : (beginJob s).state = .busy := rfl
@[simp] theorem beginJob_stopReason : (beginJob s).stopReason = s.stopReason := rfl
@[simp] theorem beginJob_invalidCodeSeen : (beginJob s).invalidCodeSeen = s.invalidCodeSeen := rfl
@[simp] theorem beginJob_inLen : (beginJob s).inLen = s.inLen := rfl
@[simp] theorem beginJob_outLen : (beginJob s).outLen = s.outLen := rfl
@[simp] theorem beginJob_produced : (beginJob s).produced = s.produced := rfl
@[simp] theorem beginJob_consumed : (beginJob s).consumed = s.consumed := rfl
@[simp] theorem beginJob_chunks : (beginJob s).chunks = s.chunks := rfl
@[simp] theorem beginJob_acc : (beginJob s).acc = s.acc := rfl
@[simp] theorem beginJob_cnt : (beginJob s).cnt = s.cnt := rfl
@[simp] theorem beginJob_inPos : (beginJob s).inPos = 0 := rfl
@[simp] theorem beginJob_outPos : (beginJob s).outPos = 0 := rfl
@[simp] theorem beginJob_chunkStart : (beginJob s).chunkStart = s.chunkStart := rfl
@[simp] theorem beginJob_chunkBound : (beginJob s).chunkBound = s.chunkBound := rfl
@[simp] theorem beginJob_sym : (beginJob s).sym = s.sym := rfl
@[simp] theorem beginJob_clen : (beginJob s).clen = s.clen := rfl
@[simp] theorem beginJob_mlen : (beginJob s).mlen = s.mlen := rfl
@[simp] theorem beginJob_offset : (beginJob s).offset = s.offset := rfl
@[simp] theorem beginJob_ncopy : (beginJob s).ncopy = s.ncopy := rfl
@[simp] theorem beginJob_nhdr : (beginJob s).nhdr = 0 := rfl
@[simp] theorem beginJob_phase : (beginJob s).phase = .busy := rfl
@[simp] theorem beginJob_fallback : (beginJob s).fallback = false := rfl
@[simp] theorem beginJob_lengths : (beginJob s).lengths = s.lengths := rfl
@[simp] theorem beginJob_tab : (beginJob s).tab = s.tab := rfl
@[simp] theorem beginJob_count : (beginJob s).count = s.count := rfl
@[simp] theorem beginJob_next : (beginJob s).next = s.next := rfl
@[simp] theorem beginJob_inMem : (beginJob s).inMem = s.inMem := rfl
@[simp] theorem beginJob_outMem : (beginJob s).outMem = s.outMem := rfl
@[simp] theorem beginJob_placement : (beginJob s).placement = s.placement := rfl
@[simp] theorem beginJob_point : (beginJob s).point = s.point := rfl
@[simp] theorem beginJob_spoiled : (beginJob s).spoiled = s.spoiled := rfl
@[simp] theorem beginJob_host : (beginJob s).host = s.host := rfl
@[simp] theorem beginJob_hostData : (beginJob s).hostData = s.hostData := rfl
@[simp] theorem beginJob_draws : (beginJob s).draws = s.draws := rfl

/-! ### zeroFill -/

@[simp] theorem zeroFill_state : (zeroFill s).state = s.state := rfl
@[simp] theorem zeroFill_stopReason : (zeroFill s).stopReason = s.stopReason := rfl
@[simp] theorem zeroFill_invalidCodeSeen : (zeroFill s).invalidCodeSeen = s.invalidCodeSeen := rfl
@[simp] theorem zeroFill_inLen : (zeroFill s).inLen = s.inLen := rfl
@[simp] theorem zeroFill_outLen : (zeroFill s).outLen = s.outLen := rfl
@[simp] theorem zeroFill_produced : (zeroFill s).produced = s.produced := rfl
@[simp] theorem zeroFill_consumed : (zeroFill s).consumed = s.consumed := rfl
@[simp] theorem zeroFill_chunks : (zeroFill s).chunks = s.chunks := rfl
@[simp] theorem zeroFill_acc : (zeroFill s).acc = s.acc := rfl
@[simp] theorem zeroFill_cnt : (zeroFill s).cnt = s.cnt := rfl
@[simp] theorem zeroFill_inPos : (zeroFill s).inPos = s.inPos := rfl
@[simp] theorem zeroFill_outPos : (zeroFill s).outPos = s.outPos := rfl
@[simp] theorem zeroFill_chunkStart : (zeroFill s).chunkStart = s.chunkStart := rfl
@[simp] theorem zeroFill_chunkBound : (zeroFill s).chunkBound = s.chunkBound := rfl
@[simp] theorem zeroFill_sym : (zeroFill s).sym = s.sym := rfl
@[simp] theorem zeroFill_clen : (zeroFill s).clen = s.clen := rfl
@[simp] theorem zeroFill_mlen : (zeroFill s).mlen = s.mlen := rfl
@[simp] theorem zeroFill_offset : (zeroFill s).offset = s.offset := rfl
@[simp] theorem zeroFill_ncopy : (zeroFill s).ncopy = s.ncopy := rfl
@[simp] theorem zeroFill_nhdr : (zeroFill s).nhdr = s.nhdr := rfl
@[simp] theorem zeroFill_phase : (zeroFill s).phase = s.phase := rfl
@[simp] theorem zeroFill_fallback : (zeroFill s).fallback = s.fallback := rfl
@[simp] theorem zeroFill_lengths : (zeroFill s).lengths = s.lengths := rfl
@[simp] theorem zeroFill_tab : (zeroFill s).tab = s.tab := rfl
@[simp] theorem zeroFill_count : (zeroFill s).count = s.count := rfl
@[simp] theorem zeroFill_next : (zeroFill s).next = s.next := rfl
@[simp] theorem zeroFill_inMem : (zeroFill s).inMem = s.inMem := rfl
@[simp] theorem zeroFill_outMem : (zeroFill s).outMem = s.outMem.clearBelow s.outLen.toNat := rfl
@[simp] theorem zeroFill_placement : (zeroFill s).placement = s.placement := rfl
@[simp] theorem zeroFill_point : (zeroFill s).point = .chunkPass := rfl
@[simp] theorem zeroFill_spoiled : (zeroFill s).spoiled = storageOverlaps s := rfl
@[simp] theorem zeroFill_host : (zeroFill s).host = s.host := rfl
@[simp] theorem zeroFill_hostData : (zeroFill s).hostData = s.hostData := rfl
@[simp] theorem zeroFill_draws : (zeroFill s).draws = s.draws := rfl

/-! ### answer -/

@[simp] theorem answer_state (v : BitVec 32) : (answer v s).state = s.state := rfl
@[simp] theorem answer_stopReason (v : BitVec 32) : (answer v s).stopReason = s.stopReason := rfl
@[simp] theorem answer_invalidCodeSeen (v : BitVec 32) : (answer v s).invalidCodeSeen = s.invalidCodeSeen := rfl
@[simp] theorem answer_inLen (v : BitVec 32) : (answer v s).inLen = s.inLen := rfl
@[simp] theorem answer_outLen (v : BitVec 32) : (answer v s).outLen = s.outLen := rfl
@[simp] theorem answer_produced (v : BitVec 32) : (answer v s).produced = s.produced := rfl
@[simp] theorem answer_consumed (v : BitVec 32) : (answer v s).consumed = s.consumed := rfl
@[simp] theorem answer_chunks (v : BitVec 32) : (answer v s).chunks = s.chunks := rfl
@[simp] theorem answer_acc (v : BitVec 32) : (answer v s).acc = s.acc := rfl
@[simp] theorem answer_cnt (v : BitVec 32) : (answer v s).cnt = s.cnt := rfl
@[simp] theorem answer_inPos (v : BitVec 32) : (answer v s).inPos = s.inPos := rfl
@[simp] theorem answer_outPos (v : BitVec 32) : (answer v s).outPos = s.outPos := rfl
@[simp] theorem answer_chunkStart (v : BitVec 32) : (answer v s).chunkStart = s.chunkStart := rfl
@[simp] theorem answer_chunkBound (v : BitVec 32) : (answer v s).chunkBound = s.chunkBound := rfl
@[simp] theorem answer_sym (v : BitVec 32) : (answer v s).sym = s.sym := rfl
@[simp] theorem answer_clen (v : BitVec 32) : (answer v s).clen = s.clen := rfl
@[simp] theorem answer_mlen (v : BitVec 32) : (answer v s).mlen = s.mlen := rfl
@[simp] theorem answer_offset (v : BitVec 32) : (answer v s).offset = s.offset := rfl
@[simp] theorem answer_ncopy (v : BitVec 32) : (answer v s).ncopy = s.ncopy := rfl
@[simp] theorem answer_nhdr (v : BitVec 32) : (answer v s).nhdr = s.nhdr := rfl
@[simp] theorem answer_phase (v : BitVec 32) : (answer v s).phase = s.phase := rfl
@[simp] theorem answer_fallback (v : BitVec 32) : (answer v s).fallback = s.fallback := rfl
@[simp] theorem answer_lengths (v : BitVec 32) : (answer v s).lengths = s.lengths := rfl
@[simp] theorem answer_tab (v : BitVec 32) : (answer v s).tab = s.tab := rfl
@[simp] theorem answer_count (v : BitVec 32) : (answer v s).count = s.count := rfl
@[simp] theorem answer_next (v : BitVec 32) : (answer v s).next = s.next := rfl
@[simp] theorem answer_inMem (v : BitVec 32) : (answer v s).inMem = s.inMem := rfl
@[simp] theorem answer_outMem (v : BitVec 32) : (answer v s).outMem = s.outMem := rfl
@[simp] theorem answer_placement (v : BitVec 32) : (answer v s).placement = s.placement := rfl
@[simp] theorem answer_point (v : BitVec 32) : (answer v s).point = s.point := rfl
@[simp] theorem answer_spoiled (v : BitVec 32) : (answer v s).spoiled = s.spoiled := rfl
@[simp] theorem answer_host (v : BitVec 32) : (answer v s).host = s.host := rfl
@[simp] theorem answer_hostData (v : BitVec 32) : (answer v s).hostData = v := rfl
@[simp] theorem answer_draws (v : BitVec 32) : (answer v s).draws = s.draws := rfl

/-! ### answerFree -/

@[simp] theorem answerFree_state : (answerFree s).state = s.state := rfl
@[simp] theorem answerFree_stopReason : (answerFree s).stopReason = s.stopReason := rfl
@[simp] theorem answerFree_invalidCodeSeen : (answerFree s).invalidCodeSeen = s.invalidCodeSeen := rfl
@[simp] theorem answerFree_inLen : (answerFree s).inLen = s.inLen := rfl
@[simp] theorem answerFree_outLen : (answerFree s).outLen = s.outLen := rfl
@[simp] theorem answerFree_produced : (answerFree s).produced = s.produced := rfl
@[simp] theorem answerFree_consumed : (answerFree s).consumed = s.consumed := rfl
@[simp] theorem answerFree_chunks : (answerFree s).chunks = s.chunks := rfl
@[simp] theorem answerFree_acc : (answerFree s).acc = s.acc := rfl
@[simp] theorem answerFree_cnt : (answerFree s).cnt = s.cnt := rfl
@[simp] theorem answerFree_inPos : (answerFree s).inPos = s.inPos := rfl
@[simp] theorem answerFree_outPos : (answerFree s).outPos = s.outPos := rfl
@[simp] theorem answerFree_chunkStart : (answerFree s).chunkStart = s.chunkStart := rfl
@[simp] theorem answerFree_chunkBound : (answerFree s).chunkBound = s.chunkBound := rfl
@[simp] theorem answerFree_sym : (answerFree s).sym = s.sym := rfl
@[simp] theorem answerFree_clen : (answerFree s).clen = s.clen := rfl
@[simp] theorem answerFree_mlen : (answerFree s).mlen = s.mlen := rfl
@[simp] theorem answerFree_offset : (answerFree s).offset = s.offset := rfl
@[simp] theorem answerFree_ncopy : (answerFree s).ncopy = s.ncopy := rfl
@[simp] theorem answerFree_nhdr : (answerFree s).nhdr = s.nhdr := rfl
@[simp] theorem answerFree_phase : (answerFree s).phase = s.phase := rfl
@[simp] theorem answerFree_fallback : (answerFree s).fallback = s.fallback := rfl
@[simp] theorem answerFree_lengths : (answerFree s).lengths = s.lengths := rfl
@[simp] theorem answerFree_tab : (answerFree s).tab = s.tab := rfl
@[simp] theorem answerFree_count : (answerFree s).count = s.count := rfl
@[simp] theorem answerFree_next : (answerFree s).next = s.next := rfl
@[simp] theorem answerFree_inMem : (answerFree s).inMem = s.inMem := rfl
@[simp] theorem answerFree_outMem : (answerFree s).outMem = s.outMem := rfl
@[simp] theorem answerFree_placement : (answerFree s).placement = s.placement := rfl
@[simp] theorem answerFree_point : (answerFree s).point = s.point := rfl
@[simp] theorem answerFree_spoiled : (answerFree s).spoiled = s.spoiled := rfl
@[simp] theorem answerFree_host : (answerFree s).host = s.host := rfl
@[simp] theorem answerFree_hostData : (answerFree s).hostData = Config.freeWord s.draws := rfl
@[simp] theorem answerFree_draws : (answerFree s).draws = s.draws + 1 := rfl

/-! ### spoilIfBusy -/

@[simp] theorem spoilIfBusy_state : (spoilIfBusy s).state = s.state := rfl
@[simp] theorem spoilIfBusy_stopReason : (spoilIfBusy s).stopReason = s.stopReason := rfl
@[simp] theorem spoilIfBusy_invalidCodeSeen : (spoilIfBusy s).invalidCodeSeen = s.invalidCodeSeen := rfl
@[simp] theorem spoilIfBusy_inLen : (spoilIfBusy s).inLen = s.inLen := rfl
@[simp] theorem spoilIfBusy_outLen : (spoilIfBusy s).outLen = s.outLen := rfl
@[simp] theorem spoilIfBusy_produced : (spoilIfBusy s).produced = s.produced := rfl
@[simp] theorem spoilIfBusy_consumed : (spoilIfBusy s).consumed = s.consumed := rfl
@[simp] theorem spoilIfBusy_chunks : (spoilIfBusy s).chunks = s.chunks := rfl
@[simp] theorem spoilIfBusy_acc : (spoilIfBusy s).acc = s.acc := rfl
@[simp] theorem spoilIfBusy_cnt : (spoilIfBusy s).cnt = s.cnt := rfl
@[simp] theorem spoilIfBusy_inPos : (spoilIfBusy s).inPos = s.inPos := rfl
@[simp] theorem spoilIfBusy_outPos : (spoilIfBusy s).outPos = s.outPos := rfl
@[simp] theorem spoilIfBusy_chunkStart : (spoilIfBusy s).chunkStart = s.chunkStart := rfl
@[simp] theorem spoilIfBusy_chunkBound : (spoilIfBusy s).chunkBound = s.chunkBound := rfl
@[simp] theorem spoilIfBusy_sym : (spoilIfBusy s).sym = s.sym := rfl
@[simp] theorem spoilIfBusy_clen : (spoilIfBusy s).clen = s.clen := rfl
@[simp] theorem spoilIfBusy_mlen : (spoilIfBusy s).mlen = s.mlen := rfl
@[simp] theorem spoilIfBusy_offset : (spoilIfBusy s).offset = s.offset := rfl
@[simp] theorem spoilIfBusy_ncopy : (spoilIfBusy s).ncopy = s.ncopy := rfl
@[simp] theorem spoilIfBusy_nhdr : (spoilIfBusy s).nhdr = s.nhdr := rfl
@[simp] theorem spoilIfBusy_phase : (spoilIfBusy s).phase = s.phase := rfl
@[simp] theorem spoilIfBusy_fallback : (spoilIfBusy s).fallback = s.fallback := rfl
@[simp] theorem spoilIfBusy_lengths : (spoilIfBusy s).lengths = s.lengths := rfl
@[simp] theorem spoilIfBusy_tab : (spoilIfBusy s).tab = s.tab := rfl
@[simp] theorem spoilIfBusy_count : (spoilIfBusy s).count = s.count := rfl
@[simp] theorem spoilIfBusy_next : (spoilIfBusy s).next = s.next := rfl
@[simp] theorem spoilIfBusy_inMem : (spoilIfBusy s).inMem = s.inMem := rfl
@[simp] theorem spoilIfBusy_outMem : (spoilIfBusy s).outMem = s.outMem := rfl
@[simp] theorem spoilIfBusy_placement : (spoilIfBusy s).placement = s.placement := rfl
@[simp] theorem spoilIfBusy_point : (spoilIfBusy s).point = s.point := rfl
@[simp] theorem spoilIfBusy_spoiled : (spoilIfBusy s).spoiled = (s.spoiled || decide (s.state = .busy)) := rfl
@[simp] theorem spoilIfBusy_host : (spoilIfBusy s).host = s.host := rfl
@[simp] theorem spoilIfBusy_hostData : (spoilIfBusy s).hostData = s.hostData := rfl
@[simp] theorem spoilIfBusy_draws : (spoilIfBusy s).draws = s.draws := rfl

end Sys2Proof.Laws
end

