-- ==== Sys2Proof/Laws/Build.lean ====
section
/-! SUPPORT. What the header read and each step of BUILD do, said once: the cells they write, and that they write nothing
else. -/

namespace Sys2Proof.Laws
open Sys2Proof.Machine

/-! ### Writing a run of cells -/

theorem read_foldl_write {w : Nat} (f : Nat → BitVec w) (l : List Nat) (m : Memory w) (a : Nat) :
    (l.foldl (fun m b => m.write b (f b)) m).read a = if a ∈ l then f a else m.read a := by
  induction l generalizing m with
  | nil => simp
  | cons b l ih =>
    rw [List.foldl_cons, ih, read_write]
    by_cases h : a ∈ l
    · simp [h]
    · by_cases hb : a = b <;> simp [h, hb]

theorem wf_foldl_write {w : Nat} (f : Nat → BitVec w) (l : List Nat) {m : Memory w} (h : m.wf) :
    (l.foldl (fun m b => m.write b (f b)) m).wf := by
  induction l generalizing m with
  | nil => exact h
  | cons b l ih => exact ih (wf_write h _ _)

theorem mem_codeLengths {len : Nat} : len ∈ codeLengths ↔ 1 ≤ len ∧ len < 16 := by
  show len ∈ List.range' 1 15 ↔ _
  rw [List.mem_range'_1]

/-! ### The header read (42 R145) -/

/-- LENGTHS after `n` header bytes. -/
theorem unpackHeader_read (f : Nat → BitVec 8) (n : Nat) (m : Memory 4) (sym : Nat) :
    ((List.range n).foldl (unpackHeaderByte f) m).read sym =
      if sym < 2 * n then
        if sym % 2 = 0 then (headerNibbles (f (sym / 2))).1 else (headerNibbles (f (sym / 2))).2
      else m.read sym := by
  induction n with
  | zero => simp
  | succ n ih =>
    rw [List.range_succ, List.foldl_append, List.foldl_cons, List.foldl_nil]
    simp only [unpackHeaderByte, read_write, ih]
    by_cases h1 : sym = 2 * n + 1
    · rw [if_pos h1, if_pos (by omega), if_neg (by omega), show sym / 2 = n by omega]
    · by_cases h2 : sym = 2 * n
      · rw [if_neg h1, if_pos h2, if_pos (by omega), if_pos (by omega), show sym / 2 = n by omega]
      · rw [if_neg h1, if_neg h2]
        by_cases h3 : sym < 2 * n
        · rw [if_pos h3, if_pos (show sym < 2 * (n + 1) by omega)]
        · rw [if_neg h3, if_neg (show ¬ sym < 2 * (n + 1) by omega)]

theorem wf_unpackHeader (f : Nat → BitVec 8) (l : List Nat) {m : Memory 4} (h : m.wf) :
    (l.foldl (unpackHeaderByte f) m).wf := by
  induction l generalizing m with
  | nil => exact h
  | cons b l ih => exact ih (wf_write (wf_write h _ _) _ _)

/-- The length of every symbol comes from its nibble (30 R71). -/
theorem readHeader_lengths (s : State) (sym : Nat) :
    (readHeader s).lengths.read sym =
      if sym < 512 then
        if sym % 2 = 0 then (headerNibbles (inRead s (s.inPos.toNat + sym / 2))).1
        else (headerNibbles (inRead s (s.inPos.toNat + sym / 2))).2
      else s.lengths.read sym := by
  simp only [readHeader, unpackHeader_read, Config.hdrBytes]

/-! ### COUNT (40 R102) -/

theorem countOf_le (lengths : Memory 4) (len : Nat) : countOf lengths len ≤ 512 := by
  have := List.countP_le_length (p := fun sym => (lengths.read sym).toNat == len) (l := List.range Config.nsym)
  simpa [countOf] using this

/-- `COUNT[len]` after step 1. -/
theorem countLengths_read (lengths : Memory 4) (count : Memory 10) (len : Nat) :
    (countLengths lengths count).read len =
      if 1 ≤ len ∧ len < 16 then BitVec.ofNat 10 (countOf lengths len) else count.read len := by
  simp only [countLengths, read_foldl_write, mem_codeLengths]

theorem wf_countLengths (lengths : Memory 4) {count : Memory 10} (h : count.wf) : (countLengths lengths count).wf := by
  unfold countLengths
  exact wf_foldl_write (fun len => BitVec.ofNat 10 (countOf lengths len)) codeLengths h

/-- `COUNT` is wide enough (10 R32). -/
theorem countLengths_toNat (lengths : Memory 4) (count : Memory 10) {len : Nat} (h1 : 1 ≤ len) (h2 : len < 16) :
    ((countLengths lengths count).read len).toNat = countOf lengths len := by
  have := countOf_le lengths len
  rw [countLengths_read, if_pos ⟨h1, h2⟩, BitVec.toNat_ofNat]
  exact Nat.mod_eq_of_lt (by omega)

/-! ### NEXT (40 R103) -/

/-- The first-code recurrence over the lengths `1 .. n`. -/
theorem firstCodeStep_foldl (lengths : Memory 4) (count : Memory 10) (next : Memory 24) (n : Nat) (hn : n ≤ 15)
    (hc : ∀ len, 1 ≤ len → len < 16 → (count.read len).toNat = countOf lengths len) :
    ((List.range' 1 n).foldl (firstCodeStep count) (next, 0)).2 = firstCode lengths n ∧
      ∀ len, ((List.range' 1 n).foldl (firstCodeStep count) (next, 0)).1.read len =
        if 1 ≤ len ∧ len < n + 1 then BitVec.ofNat 24 (firstCode lengths len) else next.read len := by
  induction n with
  | zero => exact ⟨rfl, fun len => by rw [if_neg (by omega)]; rfl⟩
  | succ n ih =>
    obtain ⟨hcode, hr⟩ := ih (by omega)
    have hnew : (firstCode lengths n + if 1 + n = 1 then 0 else (count.read (1 + n - 1)).toNat) <<< 1 =
        firstCode lengths (n + 1) := by
      rw [firstCode, Nat.shiftLeft_eq, pow_one]
      by_cases h : n = 0
      · simp [h]
      · rw [if_neg (by omega), if_neg h, Nat.add_sub_cancel_left, hc n (by omega) (by omega)]
    rw [List.range'_concat, List.foldl_append, List.foldl_cons, List.foldl_nil, one_mul]
    simp only [firstCodeStep, hcode, hnew, true_and]
    intro len
    rw [read_write, hr]
    by_cases h : len = 1 + n
    · subst h
      rw [if_pos rfl, if_pos (by omega), Nat.add_comm 1 n]
    · rw [if_neg h]
      by_cases h2 : 1 ≤ len ∧ len < n + 1
      · rw [if_pos h2, if_pos (by omega)]
      · rw [if_neg h2, if_neg (by omega)]

/-- `NEXT[len]` after step 2. -/
theorem firstCodes_read (lengths : Memory 4) (count : Memory 10) (next : Memory 24) (len : Nat)
    (hc : ∀ len, 1 ≤ len → len < 16 → (count.read len).toNat = countOf lengths len) :
    (firstCodes count next).read len =
      if 1 ≤ len ∧ len < 16 then BitVec.ofNat 24 (firstCode lengths len) else next.read len :=
  (firstCodeStep_foldl lengths count next 15 le_rfl hc).2 len

theorem wf_firstCodes (count : Memory 10) {next : Memory 24} (h : next.wf) : (firstCodes count next).wf := by
  have : ∀ (l : List Nat) (p : Memory 24 × Nat), p.1.wf → (l.foldl (firstCodeStep count) p).1.wf := fun l => by
    induction l with
    | nil => exact fun p hp => hp
    | cons len l ih => exact fun p hp => ih _ (wf_write hp _ _)
  exact this _ _ h

/-! ### Clearing (40 R101) -/

theorem clearTab_read (tab : Memory 16) (i : Nat) : (clearTab tab).read i = if i < 32768 then 0 else tab.read i := by
  unfold clearTab; exact read_clearBelow tab _ i

theorem wf_clearTab {tab : Memory 16} (h : tab.wf) : (clearTab tab).wf := by
  unfold clearTab; exact wf_clearBelow h _

/-! ### Placing (40 R104, R105) -/

/-- 40 R105 as it stands: the slots `i` with `i >> (15 − len) = code` take the entry, and no other slot changes; a code that does
not fit its length takes none (R107). -/
theorem placeCode_read {sym len code i : Nat} (tab : Memory 16) (hlen : len ≤ 15) (hi : i < 32768) :
    (placeCode sym len code tab).read i =
      if i >>> (15 - len) = code then tableEntry (BitVec.ofNat 4 len) (BitVec.ofNat 9 sym) else tab.read i := by
  unfold placeCode
  have hpos : 0 < 2 ^ (15 - len) := by positivity
  have hprod : 2 ^ len * 2 ^ (15 - len) = 32768 := by rw [← Nat.pow_add, Nat.add_sub_cancel' hlen]
  rw [Nat.shiftRight_eq_div_pow]
  by_cases h : code < 2 ^ len
  · rw [if_pos h, read_fillRange]
    have : (code * 2 ^ (15 - len) ≤ i ∧ i < code * 2 ^ (15 - len) + 2 ^ (15 - len)) ↔ i / 2 ^ (15 - len) = code := by
      rw [Nat.div_eq_iff hpos]
      have : 2 ^ (15 - len) * code = code * 2 ^ (15 - len) := Nat.mul_comm _ _
      omega
    simp only [this]
  · rw [if_neg h, if_neg]
    intro he
    exact h (he ▸ Nat.div_lt_of_lt_mul (by rw [Nat.mul_comm, hprod]; exact hi))

/-- Outside TAB's 32768 entries nothing is placed. -/
theorem placeCode_read_outside {sym len code i : Nat} (tab : Memory 16) (hlen : len ≤ 15) (hi : 32768 ≤ i) :
    (placeCode sym len code tab).read i = tab.read i := by
  unfold placeCode
  have hprod : 2 ^ len * 2 ^ (15 - len) = 32768 := by rw [← Nat.pow_add, Nat.add_sub_cancel' hlen]
  by_cases h : code < 2 ^ len
  · rw [if_pos h, read_fillRange, if_neg]
    have : (code + 1) * 2 ^ (15 - len) ≤ 2 ^ len * 2 ^ (15 - len) := Nat.mul_le_mul_right _ h
    rw [Nat.succ_mul] at this
    omega
  · rw [if_neg h]

theorem wf_placeCode {sym len code : Nat} {tab : Memory 16} (h : tab.wf) : (placeCode sym len code tab).wf := by
  unfold placeCode; split
  · exact wf_fillRange h _ _ _
  · exact h

theorem wf_placeSymbol {lengths : Memory 4} {p : Memory 24 × Memory 16} (h1 : p.1.wf) (h2 : p.2.wf) (sym : Nat) :
    (placeSymbol lengths p sym).1.wf ∧ (placeSymbol lengths p sym).2.wf := by
  unfold placeSymbol
  by_cases h : 0 < (lengths.read sym).toNat
  · simp only [h, if_true]
    exact ⟨wf_write h1 _ _, wf_placeCode h2⟩
  · simp only [h, if_false]
    exact ⟨h1, h2⟩

/-- `NEXT` after one symbol: one more for its own length (40 R104). -/
theorem placeSymbol_next (lengths : Memory 4) (p : Memory 24 × Memory 16) (sym len : Nat) :
    (placeSymbol lengths p sym).1.read len =
      if 0 < len ∧ (lengths.read sym).toNat = len then p.1.read len + 1 else p.1.read len := by
  unfold placeSymbol
  by_cases h : 0 < (lengths.read sym).toNat
  · simp only [h, if_true, read_write]
    by_cases hl : len = (lengths.read sym).toNat
    · subst hl; simp [h]
    · rw [if_neg hl, if_neg (by rintro ⟨_, rfl⟩; exact hl rfl)]
  · simp only [h, if_false]
    rw [if_neg (by rintro ⟨h1, rfl⟩; exact h h1)]

/-- TAB after one symbol: its slots take its entry (40 R105). -/
theorem placeSymbol_tab (lengths : Memory 4) (p : Memory 24 × Memory 16) (sym i : Nat) (hi : i < 32768) :
    (placeSymbol lengths p sym).2.read i =
      if 0 < (lengths.read sym).toNat ∧
          i >>> (15 - (lengths.read sym).toNat) = (p.1.read (lengths.read sym).toNat).toNat then
        symbolEntry lengths sym
      else p.2.read i := by
  unfold placeSymbol
  have hlen : (lengths.read sym).toNat ≤ 15 := by have := (lengths.read sym).isLt; omega
  by_cases h : 0 < (lengths.read sym).toNat
  · simp only [h, if_true, placeCode_read _ hlen hi, true_and, symbolEntry, BitVec.ofNat_toNat, BitVec.setWidth_eq]
  · simp only [h, if_false, false_and]

theorem placeSymbol_tab_outside (lengths : Memory 4) (p : Memory 24 × Memory 16) (sym i : Nat) (hi : 32768 ≤ i) :
    (placeSymbol lengths p sym).2.read i = p.2.read i := by
  unfold placeSymbol
  have hlen : (lengths.read sym).toNat ≤ 15 := by have := (lengths.read sym).isLt; omega
  by_cases h : 0 < (lengths.read sym).toNat
  · simp only [h, if_true, placeCode_read_outside _ hlen hi]
  · simp only [h, if_false]

/-! ### BUILD (40 R100) -/

/-- BUILD writes TAB, COUNT and NEXT alone (40 R110). -/
theorem build_frame (s : State) :
    build s = { s with tab := (build s).tab, count := (build s).count, next := (build s).next } := by
  simp only [build]

theorem wf_placeSymbols (lengths : Memory 4) (l : List Nat) {p : Memory 24 × Memory 16} (h1 : p.1.wf) (h2 : p.2.wf) :
    (l.foldl (placeSymbol lengths) p).1.wf ∧ (l.foldl (placeSymbol lengths) p).2.wf := by
  induction l generalizing p with
  | nil => exact ⟨h1, h2⟩
  | cons sym l ih => exact ih (wf_placeSymbol h1 h2 sym).1 (wf_placeSymbol h1 h2 sym).2

theorem build_count (s : State) : (build s).count = countLengths s.lengths s.count := by simp only [build]

theorem build_next (s : State) : (build s).next =
    ((List.range 512).foldl (placeSymbol s.lengths)
      (firstCodes (countLengths s.lengths s.count) s.next, clearTab s.tab)).1 := by simp only [build]

theorem build_tab (s : State) : (build s).tab =
    ((List.range 512).foldl (placeSymbol s.lengths)
      (firstCodes (countLengths s.lengths s.count) s.next, clearTab s.tab)).2 := by simp only [build]

theorem wf_build {s : State} (hn : s.next.wf) (ht : s.tab.wf) (hc : s.count.wf) :
    (build s).next.wf ∧ (build s).tab.wf ∧ (build s).count.wf := by
  rw [build_next, build_tab, build_count]
  have h1 : (firstCodes (countLengths s.lengths s.count) s.next).wf := wf_firstCodes (countLengths s.lengths s.count) hn
  generalize firstCodes (countLengths s.lengths s.count) s.next = n at h1
  have h := wf_placeSymbols s.lengths (List.range 512) (p := (n, clearTab s.tab)) h1 (wf_clearTab ht)
  exact ⟨h.1, h.2, wf_countLengths s.lengths hc⟩

end Sys2Proof.Laws
end

