-- ==== Sys2Proof/Laws/Stream.lean ====
section
/-! SUPPORT. What FILL, PEEK, CONSUME and an operand field do, said once over the bit stream: FILL keeps the stream, PEEK reads
its first bits, CONSUME drops them. -/

namespace Sys2Proof.Laws
open Sys2Proof.Machine

/-- Nothing but the accumulator and `IN_POS` differs. -/
def sameButCursor (s t : State) : Prop := t = { s with acc := t.acc, cnt := t.cnt, inPos := t.inPos }

theorem sameButCursor_refl (s : State) : sameButCursor s s := rfl

theorem sameButCursor_trans {s t u : State} (h1 : sameButCursor s t) (h2 : sameButCursor t u) : sameButCursor s u := by
  unfold sameButCursor at *
  rw [h2, h1]

theorem sameButCursor_pullByte (s : State) : sameButCursor s (pullByte s) := rfl

theorem sameButCursor_consume (n : Nat) (s : State) : sameButCursor s (consume n s) := rfl

/-! ### One pull -/

theorem pullByte_cnt_toNat {s : State} (h : s.cnt.toNat < 16) : (pullByte s).cnt.toNat = s.cnt.toNat + 8 := by
  simp only [pullByte_cnt, BitVec.toNat_add]
  simp; omega

theorem pullByte_inPos_toNat {s : State} (h : s.inPos.toNat < s.inLen.toNat) :
    (pullByte s).inPos.toNat = s.inPos.toNat + 1 := by
  have := s.inLen.isLt
  simp only [pullByte_inPos, BitVec.toNat_add]
  simp; omega

theorem pullByte_getLsbD {s : State} (hs : s.acc.toNat < 2 ^ s.cnt.toNat) (hc : s.cnt.toNat < 16) (j : Nat) :
    (pullByte s).acc.getLsbD j =
      if j < s.cnt.toNat then s.acc.getLsbD j
      else if j < s.cnt.toNat + 8 then (inRead s s.inPos.toNat).getLsbD (j - s.cnt.toNat) else false := by
  simp only [pullByte_acc, BitVec.getLsbD_or, BitVec.getLsbD_shiftLeft, BitVec.getLsbD_setWidth]
  by_cases h1 : j < s.cnt.toNat
  · simp [h1]
  · have hz : s.acc.getLsbD j = false := by
      rw [BitVec.getLsbD]
      exact Nat.testBit_lt_two_pow (hs.trans_le (Nat.pow_le_pow_right (by decide) (by omega)))
    by_cases h2 : j < s.cnt.toNat + 8
    · rw [hz]
      simp [h1, h2, show j < 64 by omega, show j - s.cnt.toNat < 64 by omega]
    · have : (inRead s s.inPos.toNat).getLsbD (j - s.cnt.toNat) = false := BitVec.getLsbD_of_ge _ _ (by omega)
      simp [h1, h2, hz, this]

theorem acc_lt_of_bits {x : BitVec 64} {n : Nat} (h : ∀ j, n ≤ j → x.getLsbD j = false) : x.toNat < 2 ^ n :=
  Nat.lt_pow_two_of_testBit _ fun j hj => h j hj

theorem accClean_pullByte {s : State} (hs : s.acc.toNat < 2 ^ s.cnt.toNat) (hc : s.cnt.toNat < 16) :
    accClean (pullByte s) := by
  refine ⟨acc_lt_of_bits fun j hj => ?_, by rw [pullByte_cnt_toNat hc]; omega⟩
  rw [pullByte_cnt_toNat hc] at hj
  rw [pullByte_getLsbD hs hc, if_neg (by omega), if_neg (by omega)]

theorem available_pullByte {s : State} (hc : s.cnt.toNat < 16) (hi : s.inPos.toNat < s.inLen.toNat) :
    available (pullByte s) = available s := by
  simp only [available, pullByte_cnt_toNat hc, pullByte_inPos_toNat hi, pullByte_inLen]
  omega

/-- A pull moves bits from IN into ACC and leaves the stream as it was. -/
theorem streamBit_pullByte {s : State} (hs : s.acc.toNat < 2 ^ s.cnt.toNat) (hc : s.cnt.toNat < 16)
    (hi : s.inPos.toNat < s.inLen.toNat) (j : Nat) : streamBit (pullByte s) j = streamBit s j := by
  simp only [streamBit, pullByte_cnt_toNat hc, pullByte_inPos_toNat hi, pullByte_getLsbD hs hc]
  by_cases h1 : j < s.cnt.toNat
  · simp [h1, show j < s.cnt.toNat + 8 by omega]
  · by_cases h2 : j < s.cnt.toNat + 8
    · simp only [h1, h2, if_true, if_false]
      rw [show (j - s.cnt.toNat) / 8 = 0 by omega, show (j - s.cnt.toNat) % 8 = j - s.cnt.toNat by omega]
      simp
    · simp only [h1, h2, if_false]
      rw [show s.inPos.toNat + 1 + (j - (s.cnt.toNat + 8)) / 8 = s.inPos.toNat + (j - s.cnt.toNat) / 8 by omega,
        show (j - (s.cnt.toNat + 8)) % 8 = (j - s.cnt.toNat) % 8 by omega]
      rfl

/-! ### FILL -/

/-- What `FILL(n)` does when it answers `ok` (41 R121). -/
structure Filled (n : Nat) (s t : State) : Prop where
  same : sameButCursor s t
  clean : accClean t
  least : n ≤ t.cnt.toNat
  most : t.cnt.toNat ≤ max s.cnt.toNat (n + 7)
  avail : available t = available s
  stream : ∀ j, streamBit t j = streamBit s j
  ahead : s.inPos.toNat ≤ t.inPos.toNat
  inside : t.inPos.toNat ≤ max s.inPos.toNat s.inLen.toNat

theorem filled_refl {n : Nat} {s : State} (hs : accClean s) (h : n ≤ s.cnt.toNat) : Filled n s s :=
  ⟨sameButCursor_refl s, hs, h, le_max_left _ _, rfl, fun _ => rfl, le_rfl, le_max_left _ _⟩

/-- `FILL(n)`, said once: it fails exactly when fewer than `n` bits are left, and otherwise it brings `CNT` to `n` or more and
keeps the stream. -/
theorem fill_spec {n : Nat} {s : State} (hs : accClean s) (hn : n ≤ 16) :
    (fill n s = none ∧ available s < n) ∨ ∃ t, fill n s = some t ∧ Filled n s t := by
  unfold fill
  by_cases h : n ≤ s.cnt.toNat
  · exact .inr ⟨s, by simp [h], filled_refl hs h⟩
  · simp only [h, if_false]
    have hk : (n - s.cnt.toNat + 7) / 8 = 1 ∨ (n - s.cnt.toNat + 7) / 8 = 2 := by omega
    by_cases hlen : s.inLen.toNat - s.inPos.toNat < (n - s.cnt.toNat + 7) / 8
    · exact .inl ⟨by simp [hlen], by simp only [available]; omega⟩
    · refine .inr ⟨pullBytes ((n - s.cnt.toNat + 7) / 8) s, by simp [hlen], ?_⟩
      have hc : s.cnt.toNat < 16 := by omega
      have hi : s.inPos.toNat < s.inLen.toNat := by omega
      have hclean := accClean_pullByte hs.1 hc
      have h1 : ∀ m, m ≤ s.cnt.toNat + 8 → s.cnt.toNat + 8 ≤ m + 7 → Filled m s (pullByte s) := fun m hm hm' =>
        ⟨sameButCursor_pullByte s, hclean, by rw [pullByte_cnt_toNat hc]; omega,
          by rw [pullByte_cnt_toNat hc]; omega, available_pullByte hc hi, streamBit_pullByte hs.1 hc hi,
          by rw [pullByte_inPos_toNat hi]; omega, by rw [pullByte_inPos_toNat hi]; omega⟩
      rcases hk with hk | hk
      · rw [hk]
        exact h1 n (by omega) (by omega)
      · rw [hk]
        have hc2 : (pullByte s).cnt.toNat < 16 := by rw [pullByte_cnt_toNat hc]; omega
        have hi2 : (pullByte s).inPos.toNat < (pullByte s).inLen.toNat := by
          rw [pullByte_inPos_toNat hi, pullByte_inLen]; omega
        show Filled n s (pullByte (pullByte s))
        exact ⟨sameButCursor_trans (sameButCursor_pullByte s) (sameButCursor_pullByte _),
          accClean_pullByte hclean.1 hc2,
          by rw [pullByte_cnt_toNat hc2, pullByte_cnt_toNat hc]; omega,
          by rw [pullByte_cnt_toNat hc2, pullByte_cnt_toNat hc]; omega,
          (available_pullByte hc2 hi2).trans (available_pullByte hc hi),
          fun j => (streamBit_pullByte hclean.1 hc2 hi2 j).trans (streamBit_pullByte hs.1 hc hi j),
          by rw [pullByte_inPos_toNat hi2, pullByte_inPos_toNat hi]; omega,
          by rw [pullByte_inPos_toNat hi2, pullByte_inPos_toNat hi]; rw [pullByte_inPos_toNat hi, pullByte_inLen] at hi2; omega⟩

/-! ### PEEK and CONSUME -/

theorem sum_pow_of_testBit (v : Nat) (n : Nat) :
    ((List.range n).map fun i => if v.testBit i then 2 ^ i else 0).sum = v % 2 ^ n := by
  induction n with
  | zero => simp [Nat.mod_one]
  | succ n ih =>
    rw [List.range_succ, List.map_append, List.sum_append, ih, Nat.mod_pow_succ, List.map_singleton,
      List.sum_singleton, Nat.testBit_eq_decide_div_mod_eq]
    rcases Nat.mod_two_eq_zero_or_one (v / 2 ^ n) with h | h <;> simp [h]

/-- `PEEK(n)` is the first `n` stream bits (41 R123). -/
theorem peek_toNat {n : Nat} {s : State} (h : n ≤ s.cnt.toNat) :
    (peek n s).toNat = streamField s 0 n := by
  have hb : ((List.range n).map fun i => if streamBit s (0 + i) then 2 ^ i else 0) =
      (List.range n).map fun i => if s.acc.toNat.testBit i then 2 ^ i else 0 :=
    List.map_congr_left fun i hi => by
      have : 0 + i < s.cnt.toNat := by have := List.mem_range.1 hi; omega
      rw [streamBit, if_pos this, BitVec.getLsbD, Nat.zero_add]
  rw [streamField, hb, sum_pow_of_testBit]
  simp [peek, BitVec.toNat_setWidth]

theorem consume_cnt_toNat {n : Nat} {s : State} (h : n ≤ s.cnt.toNat) :
    (consume n s).cnt.toNat = s.cnt.toNat - n := by
  have := s.cnt.isLt
  rw [consume_cnt, BitVec.toNat_sub]
  simp
  omega

/-- `CONSUME(n)` drops the first `n` stream bits (41 R124). -/
theorem streamBit_consume {n : Nat} {s : State} (h : n ≤ s.cnt.toNat) (j : Nat) :
    streamBit (consume n s) j = streamBit s (n + j) := by
  simp only [streamBit, consume_cnt_toNat h, consume_acc, consume_inPos]
  by_cases h1 : n + j < s.cnt.toNat
  · simp [h1, show j < s.cnt.toNat - n by omega, BitVec.getLsbD_ushiftRight]
  · simp only [h1, show ¬ j < s.cnt.toNat - n by omega, if_false]
    rw [show j - (s.cnt.toNat - n) = n + j - s.cnt.toNat by omega]
    rfl

theorem accClean_consume {n : Nat} {s : State} (hs : accClean s) (h : n ≤ s.cnt.toNat) : accClean (consume n s) := by
  refine ⟨?_, by rw [consume_cnt_toNat h]; have := hs.2; omega⟩
  rw [consume_cnt_toNat h, consume_acc, BitVec.toNat_ushiftRight, Nat.shiftRight_eq_div_pow]
  rw [Nat.div_lt_iff_lt_mul (by positivity), ← Nat.pow_add]
  rw [show s.cnt.toNat - n + n = s.cnt.toNat by omega]
  exact hs.1

theorem available_consume {n : Nat} {s : State} (h : n ≤ s.cnt.toNat) : available (consume n s) + n = available s := by
  simp only [available, consume_cnt_toNat h, consume_inLen, consume_inPos]
  omega

/-! ### One operand field -/

/-- What reading a field does when it does not stop (43 R172 to R174). -/
structure FieldRead (n v : Nat) (s t : State) : Prop where
  same : sameButCursor s t
  clean : accClean t
  value : v = streamField s 0 n
  advance : advanced s t n
  ahead : s.inPos.toNat ≤ t.inPos.toNat
  inside : t.inPos.toNat ≤ max s.inPos.toNat s.inLen.toNat

theorem streamField_congr {s t : State} (h : ∀ j, streamBit t j = streamBit s j) (j n : Nat) :
    streamField t j n = streamField s j n := by simp [streamField, h]

/-- An operand field, said once: it stops in the state it began in when fewer than `n` bits are left, and otherwise gives the
first `n` stream bits and drops them. -/
theorem readField_spec {n : Nat} {r : StopReason} {s : State} (hs : accClean s) (hn : n ≤ 16) :
    (readField n r s = .stopped r s ∧ available s < n) ∨
      ∃ (v : BitVec n) (t : State), readField n r s = .value v t ∧ n ≤ available s ∧ FieldRead n v.toNat s t := by
  rcases fill_spec (n := n) hs hn with ⟨hf, ha⟩ | ⟨t, hf, ht⟩
  · exact .inl ⟨by simp [readField, hf], ha⟩
  · refine .inr ⟨peek n t, consume n t, by simp [readField, hf], ?_, ?_⟩
    · rw [← ht.avail]; have := ht.least; simp only [available]; omega
    · exact ⟨sameButCursor_trans ht.same (sameButCursor_consume n t), accClean_consume ht.clean ht.least,
        by rw [peek_toNat ht.least, streamField_congr ht.stream],
        ⟨by rw [available_consume ht.least, ht.avail],
          fun j => by rw [streamBit_consume ht.least, ht.stream]⟩,
        by rw [consume_inPos]; exact ht.ahead, by rw [consume_inPos]; exact ht.inside⟩

end Sys2Proof.Laws
end

