-- ==== Sys2Proof/Laws/Copy.lean ====
section
/-! SUPPORT. What the byte-serial copy and the operand forms of a back-reference do, each said once. -/

namespace Sys2Proof.Laws
open Sys2Proof.Machine

/-! ### The copy (43 R178) -/

theorem copiedByte_step {out : Memory 8} {dst dist n : Nat} (hd : 1 ≤ dist) (hs : dist ≤ dst) (a : Nat) :
    copiedByte (out.write dst (out.read (dst - dist))) (dst + 1) dist n a = copiedByte out dst dist (n + 1) a := by
  unfold copiedByte
  rcases Nat.lt_trichotomy a dst with h | h | h
  · rw [if_neg (by omega), if_neg (by omega), read_write_other _ _ (by omega)]
  · subst h
    rw [if_neg (by omega), if_pos (by omega), read_write_same]
    simp
  · by_cases h2 : a < dst + 1 + n
    · rw [if_pos (by omega), if_pos (by omega)]
      obtain ⟨d, rfl⟩ : ∃ d, a = dst + 1 + d := ⟨a - dst - 1, by omega⟩
      rw [show dst + 1 + d - (dst + 1) = d by omega, show dst + 1 + d - dst = d + 1 by omega]
      have hlt := Nat.mod_lt d (show dist > 0 by omega)
      by_cases hr : d % dist = dist - 1
      · have hz : (d + 1) % dist = 0 := by
          rw [Nat.add_mod, hr]
          rcases Nat.eq_or_lt_of_le hd with h1 | h1
          · simp [← h1]
          · rw [Nat.mod_eq_of_lt h1, show dist - 1 + 1 = dist by omega, Nat.mod_self]
        rw [hz, hr, show dst + 1 - dist + (dist - 1) = dst by omega, read_write_same, Nat.add_zero]
      · have hz : (d + 1) % dist = d % dist + 1 := by
          have h1 : 1 < dist := by omega
          rw [Nat.add_mod, Nat.mod_eq_of_lt h1, Nat.mod_eq_of_lt (by omega)]
        rw [hz, read_write_other _ _ (by omega)]
        congr 1; omega
    · rw [if_neg (by omega), if_neg (by omega), read_write_other _ _ (by omega)]

/-- What the copy leaves in OUT: the `dist` bytes before the write position, repeated. -/
theorem copyBytes_read {n dist dst : Nat} {out : Memory 8} (hd : 1 ≤ dist) (hs : dist ≤ dst) (a : Nat) :
    (copyBytes n (dst - dist) dst out).read a = copiedByte out dst dist n a := by
  induction n generalizing dst out with
  | zero => simp [copyBytes, copiedByte]
  | succ n ih =>
    rw [copyBytes, show dst - dist + 1 = dst + 1 - dist by omega, ih (by omega)]
    exact copiedByte_step hd hs a

/-- The copy keeps the canonical form. -/
theorem wf_copyBytes {n src dst : Nat} {out : Memory 8} (h : out.wf) : (copyBytes n src dst out).wf := by
  induction n generalizing src dst out with
  | zero => exact h
  | succ n ih => exact ih (wf_write h _ _)

/-- `copyMatch`, said once: CORRUPT_BACKREF when the source lies before OUT, with nothing copied; otherwise the copy, `NCOPY` and
`OUT_POS`, and nothing else. -/
theorem copyMatch_spec (s : State) :
    (s.outPos.toNat < s.offset.toNat + 1 ∧ copyMatch s = jobEnd .corruptBackref s) ∨
      (s.offset.toNat + 1 ≤ s.outPos.toNat ∧
        copyMatch s = { s with
          ncopy := BitVec.ofNat 17 (copyCount s s.mlen.toNat)
          outMem := (copyMatch s).outMem
          outPos := s.outPos + BitVec.ofNat 32 (copyCount s s.mlen.toNat) } ∧
        (∀ a, (copyMatch s).outMem.read a =
          copiedByte s.outMem s.outPos.toNat (s.offset.toNat + 1) (copyCount s s.mlen.toNat) a) ∧
        (s.outMem.wf → (copyMatch s).outMem.wf)) := by
  by_cases h : s.outPos.toNat < s.offset.toNat + 1
  · exact .inl ⟨h, by simp [copyMatch, h]⟩
  · refine .inr ⟨by omega, ?_⟩
    have he : copyMatch s = { s with
        ncopy := BitVec.ofNat 17 (copyCount s s.mlen.toNat)
        outMem := copyBytes (copyCount s s.mlen.toNat) (s.outPos.toNat - s.offset.toNat - 1) s.outPos.toNat s.outMem
        outPos := s.outPos + BitVec.ofNat 32 (copyCount s s.mlen.toNat) } := by
      simp only [copyMatch, h, if_false]; rfl
    rw [he]
    refine ⟨rfl, fun a => ?_, fun hw => wf_copyBytes hw⟩
    rw [show s.outPos.toNat - s.offset.toNat - 1 = s.outPos.toNat - (s.offset.toNat + 1) by omega]
    exact copyBytes_read (by omega) (by omega) a

/-! ### Operand forms (43 R172 to R175) -/

/-- The offset, said once: OFFX is read when `oh > 0`; the stop is BITS_OFFSET, in the state the field began in. -/
theorem offsetOperand_spec {oh : BitVec 3} {s : State} (hs : accClean s) :
    (offsetOperand oh s = .stopped .bitsOffset s ∧ available s < oh.toNat) ∨
      ∃ (x : Nat) (t : State), offsetOperand oh s = .value (2 ^ oh.toNat + x - 1) t ∧ oh.toNat ≤ available s ∧
        x < 2 ^ oh.toNat ∧ FieldRead oh.toNat x s t := by
  have hoh := oh.isLt
  by_cases h : oh = 0
  · subst h
    refine .inr ⟨0, s, by simp [offsetOperand], by simp, by simp, ?_⟩
    exact ⟨sameButCursor_refl s, hs, by simp [streamField], ⟨by simp, fun j => by simp⟩, le_rfl, le_max_left _ _⟩
  · simp only [offsetOperand, h, if_false]
    rcases readField_spec (n := oh.toNat) (r := .bitsOffset) hs (by omega) with ⟨hr, ha⟩ | ⟨v, t, hr, ha, ht⟩
    · exact .inl ⟨by rw [hr], ha⟩
    · exact .inr ⟨v.toNat, t, by rw [hr], ha, v.isLt, ht⟩

/-- The extended length, said once: LEN8, and LEN16 behind `LEN8 = 255`; each stop in the state its field began in. -/
theorem extendedLength_spec {s : State} (hs : accClean s) :
    (extendedLength s = .stopped .bitsLen8 s ∧ available s < 8) ∨
      (∃ (v8 : BitVec 8) (t : State), extendedLength s = .value (v8.toNat + 18) t ∧ v8.toNat < 255 ∧ 8 ≤ available s ∧
        FieldRead 8 v8.toNat s t) ∨
      (∃ t : State, extendedLength s = .stopped .bitsLen16 t ∧ FieldRead 8 255 s t ∧ 8 ≤ available s ∧ available t < 16) ∨
      ∃ (v16 : BitVec 16) (t u : State), extendedLength s = .value (v16.toNat + 3) u ∧ FieldRead 8 255 s t ∧
        24 ≤ available s ∧ FieldRead 16 v16.toNat t u := by
  unfold extendedLength
  rcases readField_spec (n := 8) (r := .bitsLen8) hs (by omega) with ⟨hr, ha⟩ | ⟨v, t, hr, ha, ht⟩
  · exact .inl ⟨by rw [hr], ha⟩
  · rw [hr]
    by_cases hv : v.toNat < 255
    · exact .inr (.inl ⟨v, t, by simp [hv], hv, ha, ht⟩)
    · have hv' : v.toNat = 255 := by have := v.isLt; omega
      simp only [Config.ext8Esc, hv, if_false]
      rw [hv'] at ht
      have hadv := ht.advance.1
      rcases readField_spec (n := 16) (r := .bitsLen16) ht.clean (by omega) with ⟨hr2, ha2⟩ | ⟨w, u, hr2, ha2, hu⟩
      · exact .inr (.inr (.inl ⟨t, by rw [hr2], ht, ha, ha2⟩))
      · exact .inr (.inr (.inr ⟨w, t, u, by rw [hr2], ht, by omega, hu⟩))

end Sys2Proof.Laws
end

