-- ==== Sys2Proof/Laws/PerInstr.lean ====
section
/-! SUPPORT. The family `TableMatch`: the word the encoder writes for a well-formed instruction meets the mask and the match of its
row of spec/opcode_table.json. One lemma per constructor of Instr. -/

namespace Sys2Proof.Laws

/-- The mask and the match of an instruction's row of spec/opcode_table.json. -/
def tableRow : Instr → Nat × Nat
  | .lit _ => (0x100, 0x000)
  | .matchL3 _ => (0x1f8, 0x100)
  | .matchL4 _ => (0x1f8, 0x108)
  | .matchL5 _ => (0x1f8, 0x110)
  | .matchL6 _ => (0x1f8, 0x118)
  | .matchL7 _ => (0x1f8, 0x120)
  | .matchL8 _ => (0x1f8, 0x128)
  | .matchL9 _ => (0x1f8, 0x130)
  | .matchL10 _ => (0x1f8, 0x138)
  | .matchL11 _ => (0x1f8, 0x140)
  | .matchL12 _ => (0x1f8, 0x148)
  | .matchL13 _ => (0x1f8, 0x150)
  | .matchL14 _ => (0x1f8, 0x158)
  | .matchL15 _ => (0x1f8, 0x160)
  | .matchL16 _ => (0x1f8, 0x168)
  | .matchL17 _ => (0x1f8, 0x170)
  | .matchX _ => (0x1f8, 0x178)
  | .matchXH _ _ => (0x180, 0x180)
  | .unassigned => (0x1e00, 0x0000)
  | .start => (0x1, 0x1)

/-- The bits of a word in any format. -/
def CodeWord.bits : CodeWord → Nat
  | .sym9 s => s.toNat
  | .tbl16 e => e.toNat
  | .ctrl32 c => c.toNat

/-- The encoded word meets its row's mask and match. -/
def TableMatch.Statement (i : Instr) : Prop :=
  i.wellFormed = true → CodeWord.bits (encode i) &&& (tableRow i).1 = (tableRow i).2

/-- The bits of a back-reference symbol above `oh`. -/
theorem matchSymbol_and (lenSlot : BitVec 5) (oh : BitVec 3) :
    (matchSymbol lenSlot oh).toNat &&& 0x1f8 = 0x100 + 8 * lenSlot.toNat := by
  revert lenSlot oh; decide +kernel

/-- Of the upper back-reference symbols, bits 8 and 7. -/
theorem matchSymbol_and_high (lenSlot : BitVec 5) (oh : BitVec 3) (h : 16 ≤ lenSlot.toNat) :
    (matchSymbol lenSlot oh).toNat &&& 0x180 = 0x180 := by
  revert lenSlot oh; decide +kernel

theorem TableMatch.lit (byte : BitVec 8) : TableMatch.Statement (.lit byte) := by
  unfold TableMatch.Statement; revert byte; decide +kernel

theorem TableMatch.matchL3 (oh : BitVec 3) : TableMatch.Statement (.matchL3 oh) := fun _ => matchSymbol_and _ oh

theorem TableMatch.matchL4 (oh : BitVec 3) : TableMatch.Statement (.matchL4 oh) := fun _ => matchSymbol_and _ oh

theorem TableMatch.matchL5 (oh : BitVec 3) : TableMatch.Statement (.matchL5 oh) := fun _ => matchSymbol_and _ oh

theorem TableMatch.matchL6 (oh : BitVec 3) : TableMatch.Statement (.matchL6 oh) := fun _ => matchSymbol_and _ oh

theorem TableMatch.matchL7 (oh : BitVec 3) : TableMatch.Statement (.matchL7 oh) := fun _ => matchSymbol_and _ oh

theorem TableMatch.matchL8 (oh : BitVec 3) : TableMatch.Statement (.matchL8 oh) := fun _ => matchSymbol_and _ oh

theorem TableMatch.matchL9 (oh : BitVec 3) : TableMatch.Statement (.matchL9 oh) := fun _ => matchSymbol_and _ oh

theorem TableMatch.matchL10 (oh : BitVec 3) : TableMatch.Statement (.matchL10 oh) := fun _ => matchSymbol_and _ oh

theorem TableMatch.matchL11 (oh : BitVec 3) : TableMatch.Statement (.matchL11 oh) := fun _ => matchSymbol_and _ oh

theorem TableMatch.matchL12 (oh : BitVec 3) : TableMatch.Statement (.matchL12 oh) := fun _ => matchSymbol_and _ oh

theorem TableMatch.matchL13 (oh : BitVec 3) : TableMatch.Statement (.matchL13 oh) := fun _ => matchSymbol_and _ oh

theorem TableMatch.matchL14 (oh : BitVec 3) : TableMatch.Statement (.matchL14 oh) := fun _ => matchSymbol_and _ oh

theorem TableMatch.matchL15 (oh : BitVec 3) : TableMatch.Statement (.matchL15 oh) := fun _ => matchSymbol_and _ oh

theorem TableMatch.matchL16 (oh : BitVec 3) : TableMatch.Statement (.matchL16 oh) := fun _ => matchSymbol_and _ oh

theorem TableMatch.matchL17 (oh : BitVec 3) : TableMatch.Statement (.matchL17 oh) := fun _ => matchSymbol_and _ oh

theorem TableMatch.matchX (oh : BitVec 3) : TableMatch.Statement (.matchX oh) := fun _ => matchSymbol_and _ oh

theorem TableMatch.matchXH (lenSlot : BitVec 5) (oh : BitVec 3) : TableMatch.Statement (.matchXH lenSlot oh) :=
  fun h => matchSymbol_and_high lenSlot oh (by simpa [Instr.wellFormed] using h)

theorem TableMatch.unassigned : TableMatch.Statement .unassigned := fun _ => rfl

theorem TableMatch.start : TableMatch.Statement .start := fun _ => rfl

end Sys2Proof.Laws
end

