-- ==== Sys2Proof/Laws/Step.lean ====
section
/-! SUPPORT. What the fetch does on the core's turn, and where a host address lands, each said once: the way from a step to the
operation it runs. -/

namespace Sys2Proof.Laws
open Sys2Proof.Machine

/-! ### The core's turn -/

/-- On the core's turn the fetch is the core's, from the state without the event. -/
theorem fetch_of_coreTurn {s : State} (h : coreTurn s) : fetch s = coreFetch (afterTurn s) := by
  unfold fetch
  rcases h with h | h
  · rw [h]; unfold afterTurn; rw [h]; cases s; simp_all
  · cases hh : s.host with
    | nil => simp [hh] at h
    | cons e rest => simp [hh] at h; subst h; simp [hostFetch, afterTurn, hh]

/-- The core's next operation, by PHASE, the contract and the place in the loops. -/
theorem coreFetch_idle {s : State} (h : s.phase ≠ .busy) : coreFetch s = .settled s := by
  unfold coreFetch
  cases hp : s.phase <;> simp_all

theorem coreFetch_spoiled {s : State} (hp : s.phase = .busy) (hs : s.spoiled = true) :
    coreFetch s = .settled (jobEndSpoiled s) := by
  unfold coreFetch; rw [hp, hs]

theorem coreFetch_chunkPass {s : State} (hj : jobRuns s) (hp : s.point = .chunkPass) :
    coreFetch s = .settled (chunkPass s) := by
  unfold coreFetch; rw [hj.1, hj.2, hp]

theorem coreFetch_symbolLoop {s : State} (hj : jobRuns s) (hp : s.point = .symbolLoop) : coreFetch s = symbolPass s := by
  unfold coreFetch; rw [hj.1, hj.2, hp]

theorem jobRuns_afterTurn {s : State} (h : jobRuns s) : jobRuns (afterTurn s) := h

/-! ### The symbol loop -/

theorem symbolPass_window {s s1 : State} (hb : s.outPos.toNat - s.chunkStart.toNat < s.chunkBound.toNat)
    (hf : fill 15 s = some s1) : symbolPass s = decodeWindow s1 := by
  unfold symbolPass; rw [if_pos hb, hf]

theorem symbolPass_short {s : State} (hb : s.outPos.toNat - s.chunkStart.toNat < s.chunkBound.toNat)
    (hf : fill 15 s = none) : symbolPass s = .settled (jobEnd .bitsSymbol s) := by
  unfold symbolPass; rw [if_pos hb, hf]

theorem symbolPass_end {s : State} (hb : s.chunkBound.toNat ≤ s.outPos.toNat - s.chunkStart.toNat) :
    symbolPass s = .settled { s with point := .chunkPass } := by
  unfold symbolPass; rw [if_neg (Nat.not_lt.2 hb)]

/-- The window's decoding consumes the code's bits first, but for UNASSIGNED. -/
theorem decodeWindow_of_ne {s : State} (h : decodeEntry (tabRead s (peek 15 s).toNat) ≠ .unassigned) :
    decodeWindow s =
      .instr (decodeEntry (tabRead s (peek 15 s).toNat)) (consume (lookUp s).clen.toNat (lookUp s)) := by
  unfold decodeWindow
  cases hd : decodeEntry (tabRead s (peek 15 s).toNat) <;> first | rfl | exact absurd hd h

theorem decodeWindow_unassigned {s : State} (h : decodeEntry (tabRead s (peek 15 s).toNat) = .unassigned) :
    decodeWindow s = .instr .unassigned (lookUp s) := by
  unfold decodeWindow; rw [h]

/-! ### Reading a field, whatever the accumulator -/

theorem sameButCursor_pullBytes (k : Nat) (s : State) : sameButCursor s (pullBytes k s) := by
  induction k generalizing s with
  | zero => exact sameButCursor_refl s
  | succ k ih => exact sameButCursor_trans (sameButCursor_pullByte s) (ih _)

theorem sameButCursor_fill {n : Nat} {s t : State} (h : fill n s = some t) : sameButCursor s t := by
  unfold fill at h
  split at h
  · cases h; exact sameButCursor_refl s
  · dsimp only at h
    split at h
    · cases h
    · cases h; exact sameButCursor_pullBytes _ s

/-- A field read changes nothing but the accumulator and `IN_POS`, or stops in the state it began in. -/
theorem readField_frame (n : Nat) (r : StopReason) (s : State) :
    readField n r s = .stopped r s ∨ ∃ (v : BitVec n) (t : State), readField n r s = .value v t ∧ sameButCursor s t := by
  unfold readField
  cases hf : fill n s with
  | none => exact .inl rfl
  | some t => exact .inr ⟨_, _, rfl, sameButCursor_trans (sameButCursor_fill hf) (sameButCursor_consume n t)⟩

/-! ### The host's addresses -/

theorem spaceOffset_add (base : Nat) {a : Nat} (h : a < 2 ^ 32) : spaceOffset base (base + a) = some a := by
  unfold spaceOffset spaceSize
  rw [if_pos ⟨Nat.le_add_right _ _, Nat.add_lt_add_left h _⟩, Nat.add_sub_cancel_left]

theorem registerOffset_add (s : State) {offset : Nat} (h : offset % 4 = 0) :
    registerOffset s (s.placement.regBase + offset) 4 = .ok offset := by
  unfold registerOffset
  rw [if_neg (Nat.not_lt.2 (Nat.le_add_right _ _)), Nat.add_sub_cancel_left, if_pos ⟨rfl, h⟩]

theorem registerOffset_refused (s : State) {offset bytes : Nat} (h : bytes ≠ 4 ∨ offset % 4 ≠ 0) :
    registerOffset s (s.placement.regBase + offset) bytes = .error .accessWidth := by
  unfold registerOffset
  rw [if_neg (Nat.not_lt.2 (Nat.le_add_right _ _)), Nat.add_sub_cancel_left, if_neg (by omega)]

/-! ### Runs -/

theorem run_of_next {s t : State} (h : step s = .next t) (k : Nat) : run (k + 1) s = run k t := by
  rw [run, h]

theorem countSteps_of_next (p : State → Prop) [DecidablePred p] {s t : State} (h : step s = .next t) (k : Nat) :
    countSteps p (k + 1) s = (if p s then 1 else 0) + countSteps p k t := by
  rw [countSteps, h]

/-! ### The matches -/

/-- Every short match is `shortMatch`. -/
theorem exec_of_short {i : Instr} {lenSlot : Nat} {oh : BitVec 3} (h : i.matchForm = some (.short lenSlot, oh)) (s : State) :
    exec i s = .next (shortMatch lenSlot oh s) ∧ lenSlot ≤ 14 := by
  cases i <;> simp [Instr.matchForm] at h <;> obtain ⟨rfl, rfl⟩ := h <;> exact ⟨rfl, by decide⟩

/-- Both extended matches are `extendedMatch`. -/
theorem exec_of_extended {i : Instr} {oh : BitVec 3} (h : i.matchForm = some (.extended, oh)) (s : State) :
    exec i s = .next (extendedMatch oh s) := by
  cases i <;> simp [Instr.matchForm] at h <;> subst h <;> rfl

end Sys2Proof.Laws
end

