-- ==== Sys2Proof/Tests/Slice0.lean ====
section
/-! SUPPORT. The model's own tests. Expected values come from spec/95_test_vectors.md and spec/30_encoding.md, or from a rule of spec/
worked by hand, as each test says. At the end, for each obligation with hypotheses, a witness that something meets them. -/

namespace Sys2Proof.Tests
open Sys2Proof.Machine

/-! ### Helpers -/

/-- The next state of an outcome. -/
def nextOf : Host.Outcome State Fault Refusal → Option State
  | .next s => some s
  | _ => none

/-- A memory that holds the given bytes from address 0 on. -/
def bytes (l : List (BitVec 8)) : Memory 8 := (l.zipIdx).foldl (fun m p => m.write p.2 p.1) ⟨[]⟩

/-- A job at its symbol loop: the given bytes of IN from 0 on, an empty accumulator, the given output and `OUT_LEN`. -/
def atSymbol (input output : List (BitVec 8)) (outLen : BitVec 32) : State :=
  { State.reset with
    phase := .busy, state := .busy, point := .symbolLoop, inMem := bytes input, inLen := BitVec.ofNat 32 input.length
    outMem := bytes output, outPos := BitVec.ofNat 32 output.length, outLen := outLen
    chunkBound := BitVec.ofNat 17 (min 65536 outLen.toNat) }

/-- `n` bytes of OUT from 0 on. -/
def outBytes (n : Nat) (s : State) : List (BitVec 8) := (List.range n).map s.outMem.read

/-- What a back-reference leaves: MLEN, OFFSET, OUT_POS, CNT and STOP_REASON. -/
def matchResult (i : Instr) (s : State) : Option (Nat × Nat × Nat × Nat × StopReason) :=
  (nextOf (exec i s)).map fun t => (t.mlen.toNat, t.offset.toNat, t.outPos.toNat, t.cnt.toNat, t.stopReason)

/-! ### WellFormed refuses ill-formed terms (30 R74, R78, R83) -/

/-- `lenSlot` 15 is MATCH.X's. -/
theorem test_wf_matchXH_low : Instr.wellFormed (.matchXH 15 0) = false := by decide
theorem test_wf_matchXH : Instr.wellFormed (.matchXH 16 0) = true := by decide
/-- OFFX has `oh` bits. -/
theorem test_wf_fields_offx : Fields.wellFormed (.short 0) 2 ⟨none, none, 4⟩ = false := by decide
/-- A short match has no LEN8. -/
theorem test_wf_fields_short_len8 : Fields.wellFormed (.short 0) 0 ⟨some 1, none, 0⟩ = false := by decide
/-- A short match has no LEN16. -/
theorem test_wf_fields_short_len16 : Fields.wellFormed (.short 0) 0 ⟨none, some 1, 0⟩ = false := by decide
/-- An extended match has a LEN8. -/
theorem test_wf_fields_no_len8 : Fields.wellFormed .extended 0 ⟨none, none, 0⟩ = false := by decide
/-- LEN8 = 255 calls for LEN16. -/
theorem test_wf_fields_no_len16 : Fields.wellFormed .extended 0 ⟨some 255, none, 0⟩ = false := by decide
/-- LEN8 < 255 has no LEN16. -/
theorem test_wf_fields_spare_len16 : Fields.wellFormed .extended 0 ⟨some 254, some 0, 0⟩ = false := by decide
theorem test_wf_copy_short : Copy.wellFormed ⟨2, 1⟩ = false := by decide
theorem test_wf_copy_long : Copy.wellFormed ⟨65539, 1⟩ = false := by decide
theorem test_wf_copy_near : Copy.wellFormed ⟨3, 0⟩ = false := by decide
theorem test_wf_copy_far : Copy.wellFormed ⟨3, 256⟩ = false := by decide

/-! ### Decoding: words written out from the encoding (30 R73, R75; 10 R22; 95 2.4) -/

theorem test_decode_lit : decodeSymbol 0b0_1111_1111 = .lit 0xFF := by decide
theorem test_decode_matchL3 : decodeSymbol 0b1_00000_000 = .matchL3 0 := by decide
theorem test_decode_matchL4 : decodeSymbol 0b1_00001_001 = .matchL4 1 := by decide
theorem test_decode_matchL5 : decodeSymbol 0b1_00010_101 = .matchL5 5 := by decide
theorem test_decode_matchL6 : decodeSymbol 0b1_00011_011 = .matchL6 3 := by decide
theorem test_decode_matchL7 : decodeSymbol 0b1_00100_010 = .matchL7 2 := by decide
theorem test_decode_matchL8 : decodeSymbol 0b1_00101_110 = .matchL8 6 := by decide
theorem test_decode_matchL9 : decodeSymbol 0b1_00110_100 = .matchL9 4 := by decide
theorem test_decode_matchL10 : decodeSymbol 0b1_00111_000 = .matchL10 0 := by decide
theorem test_decode_matchL11 : decodeSymbol 0b1_01000_111 = .matchL11 7 := by decide
theorem test_decode_matchL12 : decodeSymbol 0b1_01001_001 = .matchL12 1 := by decide
theorem test_decode_matchL13 : decodeSymbol 0b1_01010_010 = .matchL13 2 := by decide
theorem test_decode_matchL14 : decodeSymbol 0b1_01011_011 = .matchL14 3 := by decide
theorem test_decode_matchL15 : decodeSymbol 0b1_01100_100 = .matchL15 4 := by decide
theorem test_decode_matchL16 : decodeSymbol 0b1_01101_101 = .matchL16 5 := by decide
theorem test_decode_matchL17 : decodeSymbol 0b1_01110_111 = .matchL17 7 := by decide
theorem test_decode_matchX : decodeSymbol 0b1_01111_111 = .matchX 7 := by decide
theorem test_decode_matchXH : decodeSymbol 0b1_10000_101 = .matchXH 16 5 := by decide
/-- An entry of length 9 with symbol 0x1FE, and the unassigned entry. -/
theorem test_decode_entry : decodeEntry 0b000_1001_1_11111_110 = .matchXH 31 6 := by decide
theorem test_decode_unassigned : decodeEntry 0b000_0000_0_0000_0000 = .unassigned := by decide
/-- CTRL bits 31:1 are ignored, and bit 0 clear commands nothing. -/
theorem test_decode_start : decodeCtrl 0x80000001 = .ok .start := by decide
theorem test_decode_no_command : (decodeCtrl 0x80000000).toOption = none := by decide
/-- 30 R71: the low nibble is the even symbol's. -/
theorem test_header_nibbles : headerNibbles 0x21 = (1, 2) := by decide
/-- The rows' words, in the host's numbering. -/
theorem test_table_words : decodeTableWord 16 0x178 = some (.matchX 0) ∧ decodeTableWord 16 0x1FF = some (.matchXH 31 7) ∧
    decodeTableWord 16 0x0FF = some (.lit 0xFF) ∧ decodeTableWord 16 0 = some .unassigned ∧
    decodeTableWord 32 1 = some .start := by decide

/-! ### One step of each instruction -/

/-- 42 R155, 95 LV-L: the last byte of OUT. -/
theorem test_lit : (nextOf (exec (.lit 0x78) (atSymbol [] [0x77] 2))).map (fun t => (t.outPos, outBytes 3 t)) =
    some (2, [0x77, 0x78, 0x00]) := by decide
/-- 42 R156, 95 DV5: ACC 0xFFFF, CNT 16. -/
theorem test_unassigned :
    (nextOf (exec .unassigned { atSymbol [] [0x77] 3 with acc := 0xFFFF, cnt := 16 })).map
      (fun t => ((t.sym, t.clen, t.fallback, t.acc), t.cnt, t.outPos, outBytes 2 t)) =
    some ((0, 15, true, 1), 1, 2, [0x77, 0x00]) := by decide
/-- 43 R180, 95 OV1: length 3, distance 1, no field. -/
theorem test_matchL3 : matchResult (.matchL3 0) (atSymbol [] [0x61] 40) = some (3, 0, 4, 0, .none) := by decide
/-- 43 R180, 95 OV1: length 4, distance 1, no field. -/
theorem test_matchL4 : matchResult (.matchL4 0) (atSymbol [] [0x61] 40) = some (4, 0, 5, 0, .none) := by decide
/-- 43 R180, 95 OV1: length 5, distance 1, no field. -/
theorem test_matchL5 : matchResult (.matchL5 0) (atSymbol [] [0x61] 40) = some (5, 0, 6, 0, .none) := by decide
/-- 43 R180, 95 OV1: length 6, distance 1, no field. -/
theorem test_matchL6 : matchResult (.matchL6 0) (atSymbol [] [0x61] 40) = some (6, 0, 7, 0, .none) := by decide
/-- 43 R180, 95 OV1: length 7, distance 1, no field. -/
theorem test_matchL7 : matchResult (.matchL7 0) (atSymbol [] [0x61] 40) = some (7, 0, 8, 0, .none) := by decide
/-- 43 R180, 95 OV1: length 8, distance 1, no field. -/
theorem test_matchL8 : matchResult (.matchL8 0) (atSymbol [] [0x61] 40) = some (8, 0, 9, 0, .none) := by decide
/-- 43 R180, 95 OV1: length 9, distance 1, no field. -/
theorem test_matchL9 : matchResult (.matchL9 0) (atSymbol [] [0x61] 40) = some (9, 0, 10, 0, .none) := by decide
/-- 43 R180, 95 OV1: length 10, distance 1, no field. -/
theorem test_matchL10 : matchResult (.matchL10 0) (atSymbol [] [0x61] 40) = some (10, 0, 11, 0, .none) := by decide
/-- 43 R180, 95 OV1: length 11, distance 1, no field. -/
theorem test_matchL11 : matchResult (.matchL11 0) (atSymbol [] [0x61] 40) = some (11, 0, 12, 0, .none) := by decide
/-- 43 R180, 95 OV1: length 12, distance 1, no field. -/
theorem test_matchL12 : matchResult (.matchL12 0) (atSymbol [] [0x61] 40) = some (12, 0, 13, 0, .none) := by decide
/-- 43 R180, 95 OV1: length 13, distance 1, no field. -/
theorem test_matchL13 : matchResult (.matchL13 0) (atSymbol [] [0x61] 40) = some (13, 0, 14, 0, .none) := by decide
/-- 43 R180, 95 OV1: length 14, distance 1, no field. -/
theorem test_matchL14 : matchResult (.matchL14 0) (atSymbol [] [0x61] 40) = some (14, 0, 15, 0, .none) := by decide
/-- 43 R180, 95 OV1: length 15, distance 1, no field. -/
theorem test_matchL15 : matchResult (.matchL15 0) (atSymbol [] [0x61] 40) = some (15, 0, 16, 0, .none) := by decide
/-- 43 R180, 95 OV1: length 16, distance 1, no field. -/
theorem test_matchL16 : matchResult (.matchL16 0) (atSymbol [] [0x61] 40) = some (16, 0, 17, 0, .none) := by decide
/-- 43 R180, 95 OV1: length 17, distance 1, no field. -/
theorem test_matchL17 : matchResult (.matchL17 0) (atSymbol [] [0x61] 40) = some (17, 0, 18, 0, .none) := by decide
/-- 43 R181, 95 LV4: LEN8 0 is length 18. -/
theorem test_matchX : matchResult (.matchX 0) (atSymbol [0x00] [0x61] 40) = some (18, 0, 19, 0, .none) := by decide
/-- 43 R181, 95 LV7 and OV3: LEN8 255, LEN16 15, OFFX 3 of 2 bits; the output room caps the copy (43 R177). -/
theorem test_matchX_len16 :
    matchResult (.matchX 2) (atSymbol [0xFF, 0x0F, 0x00, 0x03] [1, 2, 3, 4, 5, 6, 7] 10) = some (18, 6, 10, 6, .none) := by
  decide
/-- 43 R182, 95 LV9: symbol 384 with LEN8 5 is length 23. -/
theorem test_matchXH : matchResult (.matchXH 16 0) (atSymbol [0x05] [0x61] 40) = some (23, 0, 24, 0, .none) := by decide
/-- 95 LV10: symbol 511 with LEN8 255 and LEN16 269; OFFX 0 of 7 bits is distance 128, which lies before OUT. -/
theorem test_matchXH_corrupt :
    matchResult (.matchXH 31 7) (atSymbol [0xFF, 0x0D, 0x01, 0x00] [0x61] 40) =
      some (272, 127, 1, 1, .corruptBackref) := by decide
/-- 95 CV1: the overlapping copy. -/
theorem test_copy_overlap :
    (nextOf (exec (.matchL7 1) { atSymbol [] [0x61, 0x62, 0x63] 10 with acc := 1, cnt := 1 })).map (outBytes 10) =
      some [0x61, 0x62, 0x63, 0x61, 0x62, 0x63, 0x61, 0x62, 0x63, 0x61] := by decide
/-- 42 R141, 95 EV1: the empty input, then the STATUS of 95 HV4. -/
theorem test_start_empty : (nextOf (exec .start { State.reset with outLen := 4 })).map statusWord = some 0x74 := by decide
/-- 42 R142: the zero fill, below OUT_LEN alone. -/
theorem test_start_fill :
    (nextOf (exec .start { State.reset with inLen := 1, outLen := 2, outMem := bytes [7, 8, 9] })).map
      (fun t => (t.state, outBytes 3 t)) = some (.busy, [0, 0, 9]) := by decide

/-! ### Steps -/

/-- The placed instruction runs as the first one after reset. -/
theorem test_first_lit : (nextOf (step (State.reset.withFetchWord 16 0x041))).map (fun t => (outBytes 2 t, t.sym, t.clen)) =
    some ([0x41, 0x00], 0x41, 15) := by decide
theorem test_first_start : (nextOf (step (State.reset.withFetchWord 32 1))).map statusWord = some 0x74 := by decide
/-- 95 HV1: STATUS after reset. -/
theorem test_status_reset : statusWord State.reset = 0 := by decide
/-- 95 HV2 and HV3: the words of two ended jobs. -/
theorem test_status_fallback : statusWord { State.reset with state := .complete, invalidCodeSeen := true } = 0x102 := by decide
theorem test_status_corrupt : statusWord { State.reset with state := .truncated, stopReason := .corruptBackref } = 0x63 := by
  decide
/-- 42 R143, 95 EV3: no output wanted. -/
theorem test_no_output : (nextOf (step { atSymbol [0x00] [] 0 with point := .chunkPass })).map
    (fun t => (t.state, t.stopReason, t.consumed)) = some (.complete, .none, 0) := by decide
/-- 42 R150, 95 DV9: 14 bits and no byte left. -/
theorem test_short_window : (nextOf (step { atSymbol [] [] 3 with cnt := 14 })).map (fun t => (t.state, t.stopReason)) =
    some (.truncated, .bitsSymbol) := by decide
/-- 41 R121, 95 BS4 and BS12. -/
theorem test_fill_8 : (fill 8 { atSymbol [0xAB] [] 0 with acc := 0x55, cnt := 7 }).map (fun t => (t.acc, t.cnt, t.inPos)) =
    some (0x55D5, 15, 1) := by decide
theorem test_fill_15 :
    (fill 15 { atSymbol [0x01] [] 0 with acc := 0x2000, cnt := 14 }).map (fun t => (t.acc, t.cnt, t.inPos)) =
      some (0x6000, 22, 1) := by decide
/-- 41 R122, 95 BS3: two bytes are needed and one is left. -/
theorem test_fill_fails : fill 16 { atSymbol [0xAB] [] 0 with acc := 0x55, cnt := 7 } = none := by decide
/-- 40 R103, 95 TB11: 511 symbols of length 1 and one of length 15. -/
theorem test_first_code_widest :
    firstCode (((⟨[]⟩ : Memory 4).fillRange 0 511 1).write 511 15) 15 = 8372224 := by decide +kernel

/-! ### Witnesses: something meets the hypotheses of each obligation

The name says which obligation; a name with several clauses has a witness for each. -/

/-- A job at its symbol loop with one input byte pending, seven bits buffered, and a literal of length 15 in slot 0. -/
def running : State :=
  { atSymbol [0x00] [0x61] 3 with cnt := 7, tab := (⟨[]⟩ : Memory 16).write 0 (tableEntry 15 0x41) }

/-- A job that has ended; the host has set the next one's lengths. -/
def ended : State :=
  { State.reset with phase := .done, state := .complete, inLen := 1, outLen := 1, produced := 2, acc := 5, cnt := 3 }

theorem within_nil {w lo hi : Nat} : (⟨[]⟩ : Memory w).within lo hi :=
  ⟨Laws.wf_nil, fun _ _ => rfl⟩

theorem within_write {w lo hi a : Nat} {m : Memory w} {v : BitVec w} (h : m.within lo hi) (h1 : lo ≤ a) (h2 : a < hi) :
    (m.write a v).within lo hi :=
  ⟨Laws.wf_write h.1 _ _, fun b hb => by rw [Laws.read_write_other _ _ (by omega)]; exact h.2 b hb⟩

theorem witness_running_inv : running.Inv where
  acc := by decide
  idle := by decide
  busy := by decide
  spoiled := by decide
  inPos := by decide
  outPos := by decide
  nhdr := by decide
  chunk := by decide
  tail := fun _ _ a h1 h2 => by
    have h1 : 1 ≤ a := h1
    show ((⟨[]⟩ : Memory 8).write 0 0x61).read a = 0
    rw [Laws.read_write_other _ _ (by omega)]; rfl
  entries := fun i => by
    show (((⟨[]⟩ : Memory 16).write 0 (tableEntry 15 0x41)).read i).toNat < 2 ^ 13 ∧
      (entryLen (((⟨[]⟩ : Memory 16).write 0 (tableEntry 15 0x41)).read i) = 0 →
        ((⟨[]⟩ : Memory 16).write 0 (tableEntry 15 0x41)).read i = 0)
    rw [Laws.read_write]
    split
    · exact ⟨by decide, fun h => absurd h (by decide)⟩
    · exact ⟨by rw [Laws.read_nil]; decide, fun _ => rfl⟩
  lengths := within_nil
  tab := within_write (lo := 0) (hi := 32768) (a := 0) within_nil (by decide) (by decide)
  count := within_nil
  next := within_nil
  inMem := within_write (v := 0x00) (lo := 0) (hi := 2 ^ 32) (a := 0) within_nil (by decide) (by decide)
  outMem := within_write (v := 0x61) (lo := 0) (hi := 2 ^ 32) (a := 0) within_nil (by decide) (by decide)

theorem witness_ended_inv : ended.Inv where
  acc := by decide
  idle := by decide
  busy := by decide
  spoiled := by decide
  inPos := by decide
  outPos := by decide
  nhdr := by decide
  chunk := by decide
  tail := fun h => absurd h (by decide)
  entries := fun i => ⟨by rw [show ended.tab.read i = 0 from rfl]; decide, fun _ => rfl⟩
  lengths := within_nil
  tab := within_nil
  count := within_nil
  next := within_nil
  inMem := within_nil
  outMem := within_nil

theorem witness_running_turn : coreTurn running ∧ jobRuns running ∧ running.point = .symbolLoop ∧
    running.outPos.toNat - running.chunkStart.toNat < running.chunkBound.toNat := by
  exact ⟨.inl rfl, ⟨rfl, rfl⟩, rfl, by decide⟩

/-- DecodeAndEncodeAgree. -/
theorem witness_DecodeAndEncodeAgree : Instr.wellFormed (.matchXH 16 0) = true ∧
    Instr.symbol (.matchXH 16 0) = some 0x180 ∧ (15 : BitVec 4) ≠ 0 := by decide

/-- EncodedSymbolRunsFromTheStream: exactly 15 bits are left. -/
theorem witness_EncodedSymbolRunsFromTheStream : Instr.wellFormed (.lit 0x41) = true ∧
    Instr.symbol (.lit 0x41) = some 0x041 ∧ (15 : BitVec 4) ≠ 0 ∧ accClean running ∧ 15 ≤ available running ∧
    running.tab.read (streamField running 0 15) = tableEntry 15 0x041 := by decide

/-- EncodedFieldsDriveTheCopy: the longest fields, at the distance the output just reaches. -/
theorem witness_EncodedFieldsDriveTheCopy :
    Instr.matchForm (.matchX 2) = some (.extended, 2) ∧ Fields.wellFormed .extended 2 ⟨some 255, some 15, 3⟩ = true ∧
    accClean (atSymbol [0xFF, 0x0F, 0x00, 0x03] [1, 2, 3, 4, 5, 6, 7] 10) ∧
    (Fields.bits 2 ⟨some 255, some 15, 3⟩).length ≤ available (atSymbol [0xFF, 0x0F, 0x00, 0x03] [1, 2, 3, 4, 5, 6, 7] 10) ∧
    (∀ (j : Nat) (h : j < (Fields.bits 2 ⟨some 255, some 15, 3⟩).length),
      streamBit (atSymbol [0xFF, 0x0F, 0x00, 0x03] [1, 2, 3, 4, 5, 6, 7] 10) j = (Fields.bits 2 ⟨some 255, some 15, 3⟩)[j]) ∧
    Fields.distance 2 ⟨some 255, some 15, 3⟩ ≤ (atSymbol [0xFF, 0x0F, 0x00, 0x03] [1, 2, 3, 4, 5, 6, 7] 10).outPos.toNat := by
  decide +kernel

/-- CopyExpandsToItsLengthAndDistance: both ends. -/
theorem witness_CopyExpandsToItsLengthAndDistance :
    Copy.wellFormed ⟨3, 1⟩ = true ∧ Copy.wellFormed ⟨65538, 255⟩ = true := by decide

/-- HeaderReadRecoversPackedLengths: the last header byte holds lengths 1 and 2. -/
theorem witness_HeaderReadRecoversPackedLengths :
    let s : State := { State.reset with inMem := (⟨[]⟩ : Memory 8).write 255 0x21 }
    let packed : Memory 4 := ((⟨[]⟩ : Memory 4).write 510 1).write 511 2
    ∀ i, i < 256 → inRead s (s.inPos.toNat + i) = headerByte (packed.read (2 * i)) (packed.read (2 * i + 1)) := by
  decide +kernel

/-- StepRunsTheDecodedSymbol: a window of 15 bits, a literal behind it, and the unassigned entry behind another. -/
theorem witness_StepRunsTheDecodedSymbol :
    (fill 15 (afterTurn running)).map (fun s1 => (decodeEntry (tabRead s1 (peek 15 s1).toNat), s1.cnt)) = some (.lit 0x41, 15) ∧
    (fill 15 (afterTurn { running with acc := 1 })).map (fun s1 => (decodeEntry (tabRead s1 (peek 15 s1).toNat), s1.cnt)) =
      some (.unassigned, 15) := by decide

/-- CtrlWriteRunsStart: all other bits set, and all other bits clear. -/
theorem witness_CtrlWriteRunsStart :
    ({ State.reset with host := [.regWrite 0x200000000 4 0xFFFFFFFF] } : State).host =
      .regWrite State.reset.placement.regBase 4 0xFFFFFFFF :: [] ∧ (0xFFFFFFFF : BitVec 32).getLsbD 0 = true ∧
    ({ State.reset with host := [.regWrite 0x200000000 4 0xFFFFFFFE] } : State).host =
      .regWrite State.reset.placement.regBase 4 0xFFFFFFFE :: [] ∧ (0xFFFFFFFE : BitVec 32).getLsbD 0 = false := by decide

/-- CoreRestsWhenNotBusy: nothing pending, and a turn of the core pending. -/
theorem witness_CoreRestsWhenNotBusy : (coreTurn ended ∧ ended.phase ≠ .busy) ∧
    coreTurn { ended with host := [.coreTurn] } := ⟨⟨.inl rfl, by decide⟩, .inr rfl⟩

/-- LitEmitsItsByte: the last byte of OUT; UnassignedFallsBackToZero: exactly 15 bits. -/
theorem witness_LitEmitsItsByte : (atSymbol [] [0x77] 2).outPos.toNat < (atSymbol [] [0x77] 2).outLen.toNat := by decide
theorem witness_UnassignedFallsBackToZero :
    (atSymbol [] [0x77] 2).outPos.toNat < (atSymbol [] [0x77] 2).outLen.toNat ∧
    accClean { atSymbol [] [0x77] 2 with acc := 0x7FFF, cnt := 15 } ∧
    15 ≤ ({ atSymbol [] [0x77] 2 with acc := 0x7FFF, cnt := 15 } : State).cnt.toNat := by decide

/-- LiteralOutsideOutFaults: `OUT_POS = OUT_LEN`. -/
theorem witness_LiteralOutsideOutFaults : State.reset.outLen.toNat ≤ State.reset.outPos.toNat := by decide

/-- ShortMatchCopies: the widest OFFX, exactly its bits, and the farthest source (95 CV9). -/
theorem witness_ShortMatchCopies :
    let s : State := { State.reset with acc := 127, cnt := 7, outPos := 255, outLen := 300 }
    Instr.matchForm (.matchL17 7) = some (.short 14, 7) ∧ accClean s ∧ (7 : BitVec 3).toNat ≤ available s ∧
      2 ^ (7 : BitVec 3).toNat + streamField s 0 (7 : BitVec 3).toNat ≤ s.outPos.toNat := by decide

/-- ExtendedMatchCopiesByLen8: LEN8 254, and no bit behind it. -/
theorem witness_ExtendedMatchCopiesByLen8 :
    let s : State := { State.reset with acc := 254, cnt := 8, outPos := 1, outLen := 300 }
    Instr.matchForm (.matchX 0) = some (.extended, 0) ∧ accClean s ∧ 8 + (0 : BitVec 3).toNat ≤ available s ∧
      streamField s 0 8 < 255 ∧ 2 ^ (0 : BitVec 3).toNat + streamField s 8 (0 : BitVec 3).toNat ≤ s.outPos.toNat := by decide

/-- ExtendedMatchCopiesByLen16: exactly 24 bits, for MATCH.XH. -/
theorem witness_ExtendedMatchCopiesByLen16 :
    let s : State := atSymbol [0xFF, 0xFF, 0xFF] [0x61] 300
    Instr.matchForm (.matchXH 31 0) = some (.extended, 0) ∧ accClean s ∧ 24 + (0 : BitVec 3).toNat ≤ available s ∧
      streamField s 0 8 = 255 ∧ 2 ^ (0 : BitVec 3).toNat + streamField s 24 (0 : BitVec 3).toNat ≤ s.outPos.toNat := by decide

/-- MissingOffsetBitsStop: one bit short, in the short form, behind LEN8 0 and behind LEN16. -/
theorem witness_MissingOffsetBitsStop :
    let s : State := { State.reset with cnt := 6 }
    let s14 : State := { State.reset with cnt := 14 }
    let s24 : State := atSymbol [0xFF, 0x00, 0x00] [] 300
    Instr.matchForm (.matchL3 7) = some (.short 0, 7) ∧ accClean s ∧ available s < (7 : BitVec 3).toNat ∧
      Instr.matchForm (.matchX 7) = some (.extended, 7) ∧ (accClean s14 ∧ streamField s14 0 8 < 255 ∧ 8 ≤ available s14 ∧
        available s14 < 8 + (7 : BitVec 3).toNat) ∧
      accClean s24 ∧ streamField s24 0 8 = 255 ∧ 24 ≤ available s24 ∧ available s24 < 24 + (7 : BitVec 3).toNat := by decide

/-- MissingLengthBitsStop: 7 bits; and 8 and 23 bits behind LEN8 = 255. -/
theorem witness_MissingLengthBitsStop :
    let s7 : State := { State.reset with cnt := 7 }
    let s8 : State := { State.reset with acc := 0xFF, cnt := 8 }
    let s23 : State := { State.reset with acc := 0xFF, cnt := 23 }
    Instr.matchForm (.matchX 7) = some (.extended, 7) ∧ (accClean s7 ∧ available s7 < 8) ∧
      (accClean s8 ∧ 8 ≤ available s8 ∧ available s8 < 24 ∧ streamField s8 0 8 = 255) ∧
      (accClean s23 ∧ 8 ≤ available s23 ∧ available s23 < 24 ∧ streamField s23 0 8 = 255) := by decide

/-- SourceBeforeOutStops: distance 1 with no output (95 CV8), distance 255 with 254 bytes of it (95 CV10), and distance 1 with no output
behind LEN8 254 and behind LEN16. -/
theorem witness_SourceBeforeOutStops :
    let s : State := { State.reset with acc := 127, cnt := 7, outPos := 254, outLen := 300 }
    let s8 : State := { State.reset with acc := 254, cnt := 8 }
    let s24 : State := atSymbol [0xFF, 0x00, 0x00] [] 300
    (accClean State.reset ∧ 0 + (0 : BitVec 3).toNat ≤ available State.reset ∧
      State.reset.outPos.toNat < 2 ^ (0 : BitVec 3).toNat + streamField State.reset 0 (0 : BitVec 3).toNat) ∧
    (accClean s ∧ 0 + (7 : BitVec 3).toNat ≤ available s ∧
      s.outPos.toNat < 2 ^ (7 : BitVec 3).toNat + streamField s 0 (7 : BitVec 3).toNat) ∧
    (accClean s8 ∧ streamField s8 0 8 < 255 ∧ 8 + (0 : BitVec 3).toNat ≤ available s8 ∧
      s8.outPos.toNat < 2 ^ (0 : BitVec 3).toNat + streamField s8 8 (0 : BitVec 3).toNat) ∧
    accClean s24 ∧ streamField s24 0 8 = 255 ∧ 24 + (0 : BitVec 3).toNat ≤ available s24 ∧
      s24.outPos.toNat < 2 ^ (0 : BitVec 3).toNat + streamField s24 24 (0 : BitVec 3).toNat := by decide

/-- StoppedMatchWritesNoByte: each of the four stops. -/
theorem witness_StoppedMatchWritesNoByte :
    let s : State := { State.reset with phase := .busy, state := .busy, outLen := 3 }
    (accClean s ∧ (nextOf (exec (.matchX 0) s)).map (fun t => (t.phase, t.stopReason)) = some (.done, .bitsLen8)) ∧
    (accClean { s with acc := 0xFF, cnt := 8 } ∧
      (nextOf (exec (.matchX 0) { s with acc := 0xFF, cnt := 8 })).map (fun t => (t.phase, t.stopReason)) =
        some (.done, .bitsLen16)) ∧
    (nextOf (exec (.matchL3 1) s)).map (fun t => (t.phase, t.stopReason)) = some (.done, .bitsOffset) ∧
    (nextOf (exec (.matchL3 0) s)).map (fun t => (t.phase, t.stopReason)) = some (.done, .corruptBackref) := by decide

/-- MatchXHBehavesAsMatchX: the first and the last symbol of the range; UnassignedFallsBackToZero: the unassigned entry. -/
theorem witness_MatchXHBehavesAsMatchX : (0x180 : BitVec 9).getLsbD 8 = true ∧ (0x180 : BitVec 9).getLsbD 7 = true ∧
    (0x1FF : BitVec 9).getLsbD 8 = true ∧ (0x1FF : BitVec 9).getLsbD 7 = true ∧ entryLen 0 = 0 := by decide

/-- MatchFrame asks for a MATCH alone. -/
theorem witness_MatchFrame : Instr.matchForm (.matchL3 0) = some (.short 0, 0) := by decide

/-- CompletedMatchIsCapped: one byte of room. -/
theorem witness_CompletedMatchIsCapped :
    let s := atSymbol [] [0x61] 2
    accClean s ∧ s.phase = .busy ∧ s.outPos.toNat < s.outLen.toNat ∧
      (nextOf (exec (.matchL17 0) s)).map (fun t => t.phase) = some .busy := by decide

/-- StartBeginsTheJob, StartOnEmptyInputIsInvalid, StartWhileBusyIsIgnored. -/
theorem witness_StartBeginsTheJob : ended.phase ≠ .busy ∧ ended.inLen ≠ 0 ∧ storageOverlaps ended = false := by decide
theorem witness_StartOnEmptyInputIsInvalid : State.reset.phase ≠ .busy ∧ State.reset.inLen = 0 := by decide
theorem witness_StartWhileBusyIsIgnored : running.phase = .busy := by decide

/-- BrokenContractStillEndsTheJob: one byte shared, and a job whose contract was broken. -/
theorem witness_BrokenContractStillEndsTheJob :
    (ended.phase ≠ .busy ∧ storageOverlaps { ended with placement := ⟨0, 7, 7⟩ } = true) ∧
    coreTurn { running with spoiled := true } ∧ ({ running with spoiled := true } : State).phase = .busy :=
  ⟨by decide, .inl rfl, rfl⟩

/-- FullOutputEndsTheJob: `OUT_POS = OUT_LEN`. -/
theorem witness_FullOutputEndsTheJob :
    let s : State := { atSymbol [0] [0x61] 1 with point := .chunkPass }
    coreTurn s ∧ jobRuns s ∧ s.point = .chunkPass ∧ s.outLen.toNat ≤ s.outPos.toNat :=
  ⟨.inl rfl, ⟨rfl, rfl⟩, rfl, by decide⟩

/-- ShortHeaderStopsTheJob: 255 bytes left; ChunkPassOpensTheChunk: 256. -/
theorem witness_ShortHeaderStopsTheJob :
    let s : State := { atSymbol [] [] 1 with point := .chunkPass, inLen := 255 }
    coreTurn s ∧ jobRuns s ∧ s.point = .chunkPass ∧ s.outPos.toNat < s.outLen.toNat ∧ s.inLen.toNat - s.inPos.toNat < 256 :=
  ⟨.inl rfl, ⟨rfl, rfl⟩, rfl, by decide, by decide⟩
theorem witness_ChunkPassOpensTheChunk :
    let s : State := { atSymbol [] [] 1 with point := .chunkPass, inLen := 256 }
    coreTurn s ∧ jobRuns s ∧ s.point = .chunkPass ∧ s.outPos.toNat < s.outLen.toNat ∧ 256 ≤ s.inLen.toNat - s.inPos.toNat :=
  ⟨.inl rfl, ⟨rfl, rfl⟩, rfl, by decide, by decide⟩

/-- ChunkEndReturnsToTheChunkPass: exactly the bound was emitted. -/
theorem witness_ChunkEndReturnsToTheChunkPass :
    let s : State := atSymbol [] [1, 2] 2
    coreTurn s ∧ jobRuns s ∧ s.point = .symbolLoop ∧ s.chunkBound.toNat ≤ s.outPos.toNat - s.chunkStart.toNat :=
  ⟨.inl rfl, ⟨rfl, rfl⟩, rfl, by decide⟩

/-- ShortWindowStopsTheJob: 14 bits. -/
theorem witness_ShortWindowStopsTheJob :
    let s : State := { atSymbol [] [] 1 with cnt := 14 }
    coreTurn s ∧ jobRuns s ∧ s.point = .symbolLoop ∧ s.outPos.toNat - s.chunkStart.toNat < s.chunkBound.toNat ∧ accClean s ∧
      available s < 15 :=
  ⟨.inl rfl, ⟨rfl, rfl⟩, rfl, by decide, by decide, by decide⟩

/-- FillKeepsTheStream (and the range of FillFailsExactlyWhenBitsRunOut): the least and the greatest width, with and without a
pull. -/
theorem witness_FillKeepsTheStream :
    accClean running ∧ (fill 1 running).isSome = true ∧ (fill 15 running).isSome = true ∧
      (fill 16 { running with inLen := 2 }).isSome = true ∧ fill 16 running = none := by decide

/-- Two literals of length 15, whose codes are 0 and 1 (95 TB5 has symbols 0 and 511). -/
def twoLong : Memory 4 := ((⟨[]⟩ : Memory 4).write 0 15).write 511 15

/-- BuildFillsEverySlotOfEverySymbol, SlotsOfTwoSymbolsAreDisjoint: the first and the last symbol. -/
theorem witness_BuildFillsEverySlotOfEverySymbol : slotOf twoLong 0 0 ∧ slotOf twoLong 511 1 := by
  constructor <;> unfold slotOf <;> decide +kernel

/-- BuildLeavesOtherSlotsUnassigned: the last slot of an empty table. -/
theorem witness_BuildLeavesOtherSlotsUnassigned :
    (32767 < 32768) ∧ ∀ sym, sym < 512 → ¬slotOf (⟨[]⟩ : Memory 4) sym 32767 :=
  ⟨by decide, fun _ _ h => absurd h.1 (by rw [Laws.read_nil]; decide)⟩

/-- SmallerSymbolHasSmallerCode. -/
theorem witness_SmallerSymbolHasSmallerCode :
    twoLong.read 0 = twoLong.read 511 ∧ twoLong.read 0 ≠ 0 ∧
    (build { State.reset with lengths := twoLong }).tab.read 0 = symbolEntry twoLong 0 ∧
    (build { State.reset with lengths := twoLong }).tab.read 1 = symbolEntry twoLong 511 := by decide +kernel

/-- OversubscribedSymbolIsInNoSlot: the third symbol of length 1 (95 TB4). -/
theorem witness_OversubscribedSymbolIsInNoSlot :
    let lengths : Memory 4 := (⟨[]⟩ : Memory 4).fillRange 0 3 1
    0 < (lengths.read 2).toNat ∧ 2 ^ (lengths.read 2).toNat ≤ canonicalCode lengths 2 := by decide +kernel

/-- CompleteCodeLeavesNoSlotUnassigned: two symbols of length 1. -/
theorem witness_CompleteCodeLeavesNoSlotUnassigned :
    ((List.range' 1 15).map fun len => countOf ((⟨[]⟩ : Memory 4).fillRange 510 2 1) len * 2 ^ (15 - len)).sum = 2 ^ 15 := by
  decide +kernel

/-- BuildIsPure: two states whose tables differ. -/
theorem witness_BuildIsPure : ∀ sym, sym < 512 → running.lengths.read sym = State.reset.lengths.read sym := fun _ _ => rfl

/-- LiteralOnlyHeaderNeverCopies: symbol 255 alone. -/
theorem witness_LiteralOnlyHeaderNeverCopies :
    ∀ sym, 256 ≤ sym → sym < 512 → ((⟨[]⟩ : Memory 4).write 255 1).read sym = 0 := fun sym h _ => by
  rw [Laws.read_write_other _ _ (by omega)]; rfl

/-- The host's accesses: the event of each clause stands first in the list, with STATE BUSY and not. -/
theorem witness_StatusReadShowsTheFields :
    ({ ended with host := [.regRead 0x200000004 4] } : State).host = .regRead (ended.placement.regBase + 4) 4 :: [] := rfl
theorem witness_RegisterReadsGiveTheRegisters :
    (∀ offset ∈ [8, 12, 16, 20, 24], ({ ended with host := [.regRead (0x200000000 + offset) 4] } : State).host =
      .regRead (ended.placement.regBase + offset) 4 :: []) ∧ ended.state ≠ .busy ∧
    (∀ offset ∈ [16, 20, 24], ({ running with host := [.regRead (0x200000000 + offset) 4] } : State).host =
      .regRead (running.placement.regBase + offset) 4 :: []) ∧ running.state = .busy := by
  refine ⟨fun _ _ => rfl, by decide, fun _ _ => rfl, by decide⟩
theorem witness_ReservedOffsetsReadZeroAndIgnoreWrites :
    (∀ offset ∈ [0, 28], ({ ended with host := [.regRead (0x200000000 + offset) 4] } : State).host =
      .regRead (ended.placement.regBase + offset) 4 :: []) ∧
    (∀ offset ∈ [4, 16, 24, 28], ({ ended with host := [.regWrite (0x200000000 + offset) 4 7] } : State).host =
      .regWrite (ended.placement.regBase + offset) 4 7 :: []) := ⟨fun _ _ => rfl, fun _ _ => rfl⟩
theorem witness_LengthWritesLandOnlyWhenNotBusy :
    ({ ended with host := [.regWrite 0x200000008 4 7] } : State).host = .regWrite (ended.placement.regBase + 8) 4 7 :: [] ∧
    ({ running with host := [.regWrite 0x20000000C 4 7] } : State).host = .regWrite (running.placement.regBase + 12) 4 7 :: [] :=
  ⟨rfl, rfl⟩
theorem witness_OtherRegisterAccessesAreRefused : ((1 : Nat) ≠ 4 ∨ 0 % 4 ≠ 0) ∧ ((4 : Nat) ≠ 4 ∨ 2 % 4 ≠ 0) ∧
    ({ ended with host := [.regRead 0x200000000 1] } : State).host = .regRead (ended.placement.regBase + 0) 1 :: [] ∧
    ({ ended with host := [.regWrite 0x200000002 4 7] } : State).host = .regWrite (ended.placement.regBase + 2) 4 7 :: [] := by
  decide
theorem witness_HostWritesIn : 0 < 2 ^ 32 ∧ 0xFFFFFFFF < 2 ^ 32 ∧
    ({ running with host := [.inWrite 0 7] } : State).host = .inWrite (running.placement.inBase + 0) 7 :: [] ∧
    ({ ended with host := [.inWrite 0xFFFFFFFF 7] } : State).host = .inWrite (ended.placement.inBase + 0xFFFFFFFF) 7 :: [] ∧
    ({ running with host := [.outWrite 0x100000000 7] } : State).host = .outWrite (running.placement.outBase + 0) 7 :: [] ∧
    ({ ended with host := [.outWrite 0x1FFFFFFFF 7] } : State).host =
      .outWrite (ended.placement.outBase + 0xFFFFFFFF) 7 :: [] := by
  decide
theorem witness_HostReadsOut : 0 < 2 ^ 32 ∧ 0xFFFFFFFF < 2 ^ 32 ∧ ended.state ≠ .busy ∧ running.state = .busy ∧
    ({ ended with host := [.outRead 0x100000000] } : State).host = .outRead (ended.placement.outBase + 0) :: [] ∧
    ({ running with host := [.outRead 0x1FFFFFFFF] } : State).host = .outRead (running.placement.outBase + 0xFFFFFFFF) :: [] := by
  decide
theorem witness_ResetEventRestoresTheRegisters :
    ({ running with host := [.reset] } : State).host = .reset :: [] ∧ ended.state ≠ .busy := by decide

/-- EveryStepKeepsTheInvariant and the statements over a running job's step: `running` meets the invariant
(`witness_running_inv`), has the turn (`witness_running_turn`), and its step answers a next state. -/
theorem witness_EveryStepKeepsTheInvariant : (nextOf (step running)).isSome = true := by decide

/-- EveryJobTerminates: `ended` meets the invariant (`witness_ended_inv`), and START begins a job. -/
theorem witness_EveryJobTerminates : ended.phase ≠ .busy ∧ ended.host = [] ∧ (nextOf (exec .start ended)).isSome = true := by
  decide

/-- The two counts of EveryJobTerminates at a boundary of each: a symbol decode that ends the job, and the last chunk pass. -/
theorem test_countSteps : countSteps atSymbolDecode 3 { running with cnt := 6 } = 1 ∧
    countSteps atChunkPass 3 { running with point := .chunkPass, outLen := 1 } = 1 := by decide

/-- JobResultDependsOnTheInputAlone: two machines that differ in what an earlier job left, and the whole job of each. -/
theorem witness_JobResultDependsOnTheInputAlone :
    let s' : State := { ended with acc := 0, cnt := 0, produced := 0, outMem := bytes [9] }
    ended ≠ s' ∧ s'.phase ≠ .busy ∧ s'.host = [] ∧ ended.inLen = s'.inLen ∧ ended.inLen ≠ 0 ∧ ended.outLen = s'.outLen ∧
    storageOverlaps ended = false ∧ storageOverlaps s' = false ∧
    ((nextOf (exec .start ended)).bind fun t => nextOf (run 1 t)).map (fun u => u.phase) = some .done ∧
    ((nextOf (exec .start s')).bind fun t => nextOf (run 1 t)).map (fun u => u.phase) = some .done := by decide

/-- JobEndRecordsTheResult, EndedJobLeavesItsPrefixAndZeros: a job that ends TRUNCATED with the invariant, and one that ends
COMPLETE. -/
theorem witness_EndedJobLeavesItsPrefixAndZeros :
    (nextOf (step { running with cnt := 6 })).map (fun t => (t.phase, t.state)) = some (.done, .truncated) ∧
    (nextOf (step { running with point := .chunkPass, outLen := 1 })).map (fun t => (t.phase, t.state)) =
      some (.done, .complete) := by decide

/-- ResultsStayUntilTheNextStart: a host write to IN, and a CTRL write without bit 0, between jobs. -/
theorem witness_ResultsStayUntilTheNextStart : ended.phase ≠ .busy ∧
    (nextOf (step { ended with host := [.inWrite 0 7] })).isSome = true ∧
    (nextOf (step { ended with host := [.regWrite 0x200000000 4 2] })).isSome = true ∧ (2 : BitVec 32).getLsbD 0 = false := by
  decide

end Sys2Proof.Tests
end

/-! PROOF. The canonical Huffman table (40_table_builder.md): what TAB, COUNT and NEXT hold after BUILD. A slot's symbol is the
one whose code stands in the slot's top bits (40 R105); no slot has two such symbols (40 R108), so placing the symbols in order
disturbs no entry that stands. -/

namespace Sys2Proof.Proofs
open Sys2Proof.Machine Sys2Proof.Laws

/-! ### Counting the symbols of one length (40 R102, R104) -/

/-- How many symbols below `n` have length `len`: COUNT's number at `n = 512`, and a symbol's place among those of its length. -/
def countBelow (lengths : Memory 4) (len n : Nat) : Nat :=
  (List.range n).countP fun t => (lengths.read t).toNat == len

@[simp] theorem countBelow_zero (lengths : Memory 4) (len : Nat) : countBelow lengths len 0 = 0 := rfl

theorem countBelow_succ (lengths : Memory 4) (len n : Nat) :
    countBelow lengths len (n + 1) = countBelow lengths len n + if (lengths.read n).toNat = len then 1 else 0 := by
  simp [countBelow, List.range_succ, List.countP_append, List.countP_singleton]

theorem countBelow_all (lengths : Memory 4) (len : Nat) : countBelow lengths len 512 = countOf lengths len := rfl

theorem countBelow_mono (lengths : Memory 4) (len : Nat) : Monotone (countBelow lengths len) :=
  monotone_nat_of_le_succ fun n => by rw [countBelow_succ]; exact Nat.le_add_right _ _

/-- A symbol counts itself: the count past it is greater. -/
theorem countBelow_lt {lengths : Memory 4} {sym n : Nat} (h : sym < n) :
    countBelow lengths (lengths.read sym).toNat sym < countBelow lengths (lengths.read sym).toNat n := by
  have hself := countBelow_succ lengths (lengths.read sym).toNat sym
  rw [if_pos rfl] at hself
  exact Nat.lt_of_succ_le (hself.ge.trans (countBelow_mono lengths _ h))

theorem countBelow_congr {lengths lengths' : Memory 4} {n : Nat} (len : Nat)
    (h : ∀ sym, sym < n → lengths.read sym = lengths'.read sym) :
    countBelow lengths len n = countBelow lengths' len n :=
  List.countP_congr fun t ht => by rw [h t (List.mem_range.1 ht)]

/-! ### First codes (40 R103) -/

theorem firstCode_succ (lengths : Memory 4) {len : Nat} (h : 0 < len) :
    firstCode lengths (len + 1) = (firstCode lengths len + countOf lengths len) * 2 := by
  rw [firstCode, if_neg (by omega)]

/-- The codes of one length, moved up to a longer one, end at or below its first code. -/
theorem codeEnd_mul_le_firstCode (lengths : Memory 4) {len : Nat} (h : 0 < len) (k : Nat) :
    (firstCode lengths len + countOf lengths len) * 2 ^ (k + 1) ≤ firstCode lengths (len + (k + 1)) := by
  induction k with
  | zero => rw [zero_add, pow_one, firstCode_succ lengths h]
  | succ k ih =>
    rw [← Nat.add_assoc len (k + 1), firstCode_succ lengths (by omega), Nat.pow_succ 2 (k + 1), ← Nat.mul_assoc]
    exact Nat.mul_le_mul_right 2 (ih.trans (Nat.le_add_right _ _))

theorem firstCode_add_le (lengths : Memory 4) {len : Nat} (h : 1 ≤ len) :
    firstCode lengths len + 1024 ≤ 512 * 2 ^ len := by
  induction len, h using Nat.le_induction with
  | base => simp [firstCode]
  | succ len h ih =>
    rw [firstCode_succ lengths h, Nat.pow_succ]
    have := countOf_le lengths len
    omega

/-- `NEXT` is wide enough (10 R32): no code wraps around in its 24 bits. -/
theorem firstCode_add_countBelow_lt (lengths : Memory 4) {len n : Nat} (h1 : 1 ≤ len) (h2 : len ≤ 15) (hn : n ≤ 512) :
    firstCode lengths len + countBelow lengths len n < 2 ^ 24 := by
  have hfirst := firstCode_add_le lengths h1
  have hpow : 2 ^ len ≤ 2 ^ 15 := Nat.pow_le_pow_right (by decide) h2
  have hbelow := countBelow_mono lengths len hn
  have hcount := countOf_le lengths len
  rw [countBelow_all] at hbelow
  omega

theorem firstCode_congr {lengths lengths' : Memory 4} (h : ∀ sym, sym < 512 → lengths.read sym = lengths'.read sym)
    (len : Nat) : firstCode lengths len = firstCode lengths' len := by
  induction len with
  | zero => rfl
  | succ len ih => simp only [firstCode, ih, ← countBelow_all, countBelow_congr len h]

/-! ### Canonical codes (40 R104) -/

theorem length_le (lengths : Memory 4) (sym : Nat) : (lengths.read sym).toNat ≤ 15 :=
  Nat.le_of_lt_succ (lengths.read sym).isLt

theorem canonicalCode_eq (lengths : Memory 4) (sym : Nat) :
    canonicalCode lengths sym =
      firstCode lengths (lengths.read sym).toNat + countBelow lengths (lengths.read sym).toNat sym := by
  simp only [canonicalCode, countBelow, beq_eq_decide, BitVec.toNat_inj]

/-- 40 R109: within one length the codes rise with the symbols. -/
theorem canonicalCode_lt {lengths : Memory 4} {sym sym' : Nat} (h : sym < sym')
    (hlen : lengths.read sym = lengths.read sym') : canonicalCode lengths sym < canonicalCode lengths sym' := by
  rw [canonicalCode_eq, canonicalCode_eq, ← hlen]
  exact Nat.add_lt_add_left (countBelow_lt h) _

theorem canonicalCode_lt_codeEnd {lengths : Memory 4} {sym : Nat} (h : sym < 512) :
    canonicalCode lengths sym <
      firstCode lengths (lengths.read sym).toNat + countOf lengths (lengths.read sym).toNat := by
  rw [canonicalCode_eq, ← countBelow_all]
  exact Nat.add_lt_add_left (countBelow_lt h) _

theorem canonicalCode_congr {lengths lengths' : Memory 4} (h : ∀ sym, sym < 512 → lengths.read sym = lengths'.read sym)
    {sym : Nat} (hsym : sym < 512) : canonicalCode lengths sym = canonicalCode lengths' sym := by
  rw [canonicalCode_eq, canonicalCode_eq, h sym hsym, firstCode_congr h,
    countBelow_congr _ fun t ht => h t (ht.trans hsym)]

/-! ### Slots (40 R105, R108) -/

/-- Symbols of different lengths share no slot: the longer code, cut to the shorter length, is at or past the end of the shorter
length's codes. -/
theorem not_slotOf_of_length_lt {lengths : Memory 4} {sym sym' i : Nat} (hsym : sym < 512)
    (hlen : (lengths.read sym).toNat < (lengths.read sym').toNat) (h : slotOf lengths sym i) :
    ¬slotOf lengths sym' i := by
  rintro ⟨-, htop'⟩
  obtain ⟨hpos, htop⟩ := h
  have hmax := length_le lengths sym'
  obtain ⟨k, hk⟩ := Nat.exists_eq_add_of_lt hlen
  have hend := codeEnd_mul_le_firstCode lengths hpos k
  have hlt := canonicalCode_lt_codeEnd (lengths := lengths) hsym
  have hle : firstCode lengths (lengths.read sym').toNat ≤ canonicalCode lengths sym' :=
    (canonicalCode_eq lengths sym').symm ▸ Nat.le_add_right _ _
  have hcut : canonicalCode lengths sym = canonicalCode lengths sym' / 2 ^ (k + 1) := by
    rw [← htop, ← htop', ← Nat.shiftRight_eq_div_pow, ← Nat.shiftRight_add]
    congr 1
    omega
  rw [← Nat.add_assoc] at hend
  rw [hk] at hle
  have hdiv := (Nat.le_div_iff_mul_le (by positivity)).2 (hend.trans hle)
  omega

/-- 40 R108: no slot has two symbols, whatever the lengths are. -/
theorem slotOf_unique {lengths : Memory 4} {sym sym' i : Nat} (hsym : sym < 512) (hsym' : sym' < 512)
    (h : slotOf lengths sym i) (h' : slotOf lengths sym' i) : sym = sym' := by
  rcases Nat.lt_trichotomy (lengths.read sym).toNat (lengths.read sym').toNat with hlt | heq | hgt
  · exact absurd h' (not_slotOf_of_length_lt hsym hlt h)
  · have hlen := BitVec.eq_of_toNat_eq heq
    have hcode : canonicalCode lengths sym = canonicalCode lengths sym' := by rw [← h.2, ← h'.2, hlen]
    rcases Nat.lt_trichotomy sym sym' with hs | hs | hs
    · exact absurd hcode (canonicalCode_lt hs hlen).ne
    · exact hs
    · exact absurd hcode (canonicalCode_lt hs hlen.symm).ne'
  · exact absurd h (not_slotOf_of_length_lt hsym' hgt h')

theorem slotOf_congr {lengths lengths' : Memory 4} (h : ∀ sym, sym < 512 → lengths.read sym = lengths'.read sym)
    {sym : Nat} (hsym : sym < 512) (i : Nat) : slotOf lengths sym i ↔ slotOf lengths' sym i := by
  simp only [slotOf, h sym hsym, canonicalCode_congr h hsym]

/-- Of two slots of one length, the one of the smaller code is the lower. -/
theorem slot_lt_of_code_lt {lengths : Memory 4} {sym sym' i i' : Nat} (hlen : lengths.read sym = lengths.read sym')
    (hcode : canonicalCode lengths sym < canonicalCode lengths sym') (h : slotOf lengths sym i)
    (h' : slotOf lengths sym' i') : i < i' := by
  rw [← h.2, ← h'.2, hlen, Nat.shiftRight_eq_div_pow, Nat.shiftRight_eq_div_pow] at hcode
  exact Nat.lt_of_div_lt_div hcode

/-- A code that does not fit its length has no slot (40 R107). -/
theorem canonicalCode_lt_of_slotOf {lengths : Memory 4} {sym i : Nat} (hi : i < 32768) (h : slotOf lengths sym i) :
    canonicalCode lengths sym < 2 ^ (lengths.read sym).toNat := by
  rw [← h.2, Nat.shiftRight_eq_div_pow]
  apply Nat.div_lt_of_lt_mul
  rwa [← Nat.pow_add, Nat.sub_add_cancel (length_le lengths sym)]

/-! ### Entries (30 R75) -/

theorem entrySym_tableEntry (len : BitVec 4) (sym : BitVec 9) : entrySym (tableEntry len sym) = sym :=
  BitVec.extractLsb'_append_eq_right
theorem entryLen_tableEntry (len : BitVec 4) (sym : BitVec 9) : entryLen (tableEntry len sym) = len :=
  (BitVec.extractLsb'_append_eq_of_le (xhi := 0#3 ++ len) (xlo := sym) le_rfl).trans
    BitVec.extractLsb'_append_eq_right

theorem symbolEntry_inj {lengths : Memory 4} {sym sym' : Nat} (hsym : sym < 512) (hsym' : sym' < 512)
    (h : symbolEntry lengths sym = symbolEntry lengths sym') : sym = sym' := by
  have hbits := congrArg (fun e => (entrySym e).toNat) h
  simp only [symbolEntry, entrySym_tableEntry, BitVec.toNat_ofNat] at hbits
  omega

theorem symbolEntry_ne_zero {lengths : Memory 4} {sym : Nat} (h : lengths.read sym ≠ 0) : symbolEntry lengths sym ≠ 0 :=
  fun he => h ((entryLen_tableEntry _ _).symm.trans (congrArg entryLen he))

/-! ### Placing the symbols in order (40 R104) -/

/-- `NEXT` and TAB when BUILD has placed the symbols below `n`. -/
def placedBelow (s : State) (n : Nat) : Memory 24 × Memory 16 :=
  (List.range n).foldl (placeSymbol s.lengths) (firstCodes (countLengths s.lengths s.count) s.next, clearTab s.tab)

theorem placedBelow_zero (s : State) :
    placedBelow s 0 = (firstCodes (countLengths s.lengths s.count) s.next, clearTab s.tab) := by
  rw [placedBelow, List.range_zero, List.foldl_nil]

theorem placedBelow_succ (s : State) (n : Nat) :
    placedBelow s (n + 1) = placeSymbol s.lengths (placedBelow s n) n := by
  simp only [placedBelow, List.range_succ, List.foldl_append, List.foldl_cons, List.foldl_nil]

/-- `NEXT[len]` is the first code of the length and one more for every symbol of it that is placed. -/
theorem placedBelow_next (s : State) {len : Nat} (h1 : 1 ≤ len) (h2 : len ≤ 15) (n : Nat) :
    (placedBelow s n).1.read len = BitVec.ofNat 24 (firstCode s.lengths len + countBelow s.lengths len n) := by
  induction n with
  | zero =>
    rw [placedBelow_zero, firstCodes_read s.lengths _ _ _ fun _ => countLengths_toNat s.lengths s.count,
      if_pos ⟨h1, Nat.lt_succ_of_le h2⟩, countBelow_zero, Nat.add_zero]
  | succ n ih =>
    rw [placedBelow_succ, placeSymbol_next, ih, countBelow_succ]
    by_cases hlen : (s.lengths.read n).toNat = len
    · rw [if_pos ⟨h1, hlen⟩, if_pos hlen, ← Nat.add_assoc, BitVec.ofNat_add _ 1]
      rfl
    · rw [if_neg fun h => hlen h.2, if_neg hlen, Nat.add_zero]

/-- The code a symbol takes from `NEXT` is its canonical code. -/
theorem placedBelow_next_eq_canonicalCode (s : State) {sym : Nat} (hsym : sym < 512)
    (hpos : 0 < (s.lengths.read sym).toNat) :
    ((placedBelow s sym).1.read (s.lengths.read sym).toNat).toNat = canonicalCode s.lengths sym := by
  have hmax := length_le s.lengths sym
  rw [placedBelow_next s hpos hmax, canonicalCode_eq, BitVec.toNat_ofNat]
  exact Nat.mod_eq_of_lt (firstCode_add_countBelow_lt s.lengths hpos hmax hsym.le)

/-- Placing a symbol fills its slots. -/
theorem placedBelow_succ_tab_of_slotOf (s : State) {sym i : Nat} (hsym : sym < 512) (hi : i < 32768)
    (h : slotOf s.lengths sym i) : (placedBelow s (sym + 1)).2.read i = symbolEntry s.lengths sym := by
  rw [placedBelow_succ, placeSymbol_tab _ _ _ _ hi,
    if_pos ⟨h.1, h.2.trans (placedBelow_next_eq_canonicalCode s hsym h.1).symm⟩]

/-- Placing a symbol leaves every other slot. -/
theorem placedBelow_succ_tab_of_not_slotOf (s : State) {sym i : Nat} (hsym : sym < 512) (hi : i < 32768)
    (h : ¬slotOf s.lengths sym i) : (placedBelow s (sym + 1)).2.read i = (placedBelow s sym).2.read i := by
  rw [placedBelow_succ, placeSymbol_tab _ _ _ _ hi, if_neg]
  rintro ⟨hpos, htop⟩
  exact h ⟨hpos, htop.trans (placedBelow_next_eq_canonicalCode s hsym hpos)⟩

/-- A slot that no placed symbol has is as the clear left it (40 R101). -/
theorem placedBelow_tab_of_no_slotOf (s : State) {n i : Nat} (hn : n ≤ 512) (hi : i < 32768)
    (h : ∀ sym, sym < n → ¬slotOf s.lengths sym i) : (placedBelow s n).2.read i = 0 := by
  induction n with
  | zero =>
    rw [placedBelow_zero, clearTab_read, if_pos hi]
  | succ n ih =>
    rw [placedBelow_succ_tab_of_not_slotOf s hn hi (h n n.lt_succ_self)]
    exact ih (Nat.le_of_succ_le hn) fun sym hsym => h sym (hsym.trans n.lt_succ_self)

/-- Every placed symbol's slots hold it: its own placing filled them, and by 40 R108 no later one writes there. -/
theorem placedBelow_tab_of_slotOf (s : State) {sym n i : Nat} (hn : n ≤ 512) (hsym : sym < n) (hi : i < 32768)
    (h : slotOf s.lengths sym i) : (placedBelow s n).2.read i = symbolEntry s.lengths sym := by
  induction n, hsym using Nat.le_induction with
  | base => exact placedBelow_succ_tab_of_slotOf s hn hi h
  | succ n hle ih =>
    have hother : ¬slotOf s.lengths n i := fun hslot =>
      absurd (slotOf_unique (by omega) hn h hslot) (Nat.lt_of_succ_le hle).ne
    rw [placedBelow_succ_tab_of_not_slotOf s hn hi hother]
    exact ih (Nat.le_of_succ_le hn)

/-! ### TAB, COUNT and NEXT after BUILD -/

theorem build_tab_of_slotOf (s : State) {sym i : Nat} (hsym : sym < 512) (hi : i < 32768)
    (h : slotOf s.lengths sym i) : (build s).tab.read i = symbolEntry s.lengths sym := by
  rw [build_tab, ← placedBelow]
  exact placedBelow_tab_of_slotOf s le_rfl hsym hi h

theorem build_tab_of_no_slotOf (s : State) {i : Nat} (hi : i < 32768)
    (h : ∀ sym, sym < 512 → ¬slotOf s.lengths sym i) : (build s).tab.read i = 0 := by
  rw [build_tab, ← placedBelow]
  exact placedBelow_tab_of_no_slotOf s le_rfl hi h

/-- After BUILD a slot has a symbol and holds its entry, or has none and is unassigned. -/
theorem build_tab_cases (s : State) {i : Nat} (hi : i < 32768) :
    (∃ sym, sym < 512 ∧ slotOf s.lengths sym i ∧ (build s).tab.read i = symbolEntry s.lengths sym) ∨
      ((∀ sym, sym < 512 → ¬slotOf s.lengths sym i) ∧ (build s).tab.read i = 0) := by
  by_cases h : ∃ sym, sym < 512 ∧ slotOf s.lengths sym i
  · obtain ⟨sym, hsym, hslot⟩ := h
    exact .inl ⟨sym, hsym, hslot, build_tab_of_slotOf s hsym hi hslot⟩
  · have hnone : ∀ sym, sym < 512 → ¬slotOf s.lengths sym i := fun sym hsym hslot => h ⟨sym, hsym, hslot⟩
    exact .inr ⟨hnone, build_tab_of_no_slotOf s hi hnone⟩

/-- The slots that hold a symbol's entry are its slots. -/
theorem slotOf_of_build_tab_eq (s : State) {sym i : Nat} (hsym : sym < 512) (hi : i < 32768)
    (hlen : s.lengths.read sym ≠ 0) (h : (build s).tab.read i = symbolEntry s.lengths sym) :
    slotOf s.lengths sym i := by
  rcases build_tab_cases s hi with ⟨sym', hsym', hslot, hread⟩ | ⟨-, hread⟩
  · rwa [symbolEntry_inj hsym hsym' (h.symm.trans hread)]
  · exact absurd (h.symm.trans hread) (symbolEntry_ne_zero hlen)

theorem build_next_read (s : State) {len : Nat} (h1 : 1 ≤ len) (h2 : len ≤ 15) :
    (build s).next.read len = BitVec.ofNat 24 (firstCode s.lengths len + countOf s.lengths len) := by
  rw [build_next, ← placedBelow, ← countBelow_all]
  exact placedBelow_next s h1 h2 512

theorem build_count_read (s : State) {len : Nat} (h1 : 1 ≤ len) (h2 : len ≤ 15) :
    (build s).count.read len = BitVec.ofNat 10 (countOf s.lengths len) := by
  rw [build_count, countLengths_read, if_pos ⟨h1, by omega⟩]

/-! ### The obligations -/

/-- Settles O34: placing the symbols in order, by induction over them, leaves every entry that stands. -/
theorem buildFillsEverySlotOfEverySymbol : Obligations.BuildFillsEverySlotOfEverySymbol :=
  fun s _ _ hsym hi h => build_tab_of_slotOf s hsym hi h

/-- Settles O37: the codes of one length rise with the symbols, and a slot's top bits are its code. -/
theorem smallerSymbolHasSmallerCode : Obligations.SmallerSymbolHasSmallerCode := by
  intro s sym sym' hlt hsym' hlen hne
  have hcode := canonicalCode_lt hlt hlen
  refine ⟨hcode, fun i i' hi hi' h h' => ?_⟩
  have hslot := slotOf_of_build_tab_eq s (hlt.trans hsym') hi hne h
  have hslot' := slotOf_of_build_tab_eq s hsym' hi' (hlen ▸ hne) h'
  exact slot_lt_of_code_lt hlen hcode hslot hslot'

/-- Settles O38: a slot that held the symbol would have the code in its top bits, where it would fit. -/
theorem oversubscribedSymbolIsInNoSlot : Obligations.OversubscribedSymbolIsInNoSlot := by
  intro s sym i hsym hpos hover hi h
  have hne : s.lengths.read sym ≠ 0 := fun h0 => by simp [h0] at hpos
  have hslot := slotOf_of_build_tab_eq s hsym hi hne h
  exact absurd (canonicalCode_lt_of_slotOf hi hslot) (Nat.not_lt.2 hover)

/-- Settles O40: what BUILD leaves in a cell is said by codes and counts, which read the 512 lengths alone. -/
theorem buildIsPure : Obligations.BuildIsPure := by
  intro s t h
  have hcount (len : Nat) : countOf s.lengths len = countOf t.lengths len := countBelow_congr len h
  refine ⟨fun i hi => ?_, fun len h1 h2 => ⟨?_, ?_⟩, build_frame s⟩
  case refine_1 =>
    rcases build_tab_cases s hi with ⟨sym, hsym, hslot, hread⟩ | ⟨hnone, hread⟩
    · rw [hread, build_tab_of_slotOf t hsym hi ((slotOf_congr h hsym i).1 hslot), symbolEntry, symbolEntry, h sym hsym]
    · rw [hread, build_tab_of_no_slotOf t hi fun sym hsym => (slotOf_congr h hsym i).not.1 (hnone sym hsym)]
  case refine_2 => rw [build_count_read s h1 h2, build_count_read t h1 h2, hcount]
  case refine_3 => rw [build_next_read s h1 h2, build_next_read t h1 h2, hcount, firstCode_congr h]

end Sys2Proof.Proofs

/-! PROOF. The bit-stream accumulator (41_bit_stream.md): when FILL fails, and what the field it was for does then. -/

namespace Sys2Proof.Proofs
open Sys2Proof.Machine Sys2Proof.Laws

/-- `FILL(n)` rounds the missing bits up to whole bytes, and IN falls short of that many bytes exactly when its bits do not reach
`n`. Unlike `fill_spec`, this holds of every state and every `n`: the decision reads `CNT` and the bytes
left in IN, and never `ACC`. -/
theorem fill_eq_none_iff (n : Nat) (s : State) : fill n s = none ↔ s.cnt.toNat < n ∧ available s < n := by
  unfold fill available
  by_cases henough : n ≤ s.cnt.toNat
  case pos => simp [henough]
  case neg =>
    have hbytes : s.inLen.toNat - s.inPos.toNat < (n - s.cnt.toNat + 7) / 8 ↔
        s.cnt.toNat + 8 * (s.inLen.toNat - s.inPos.toNat) < n := by omega
    simp [henough, hbytes, Nat.lt_of_not_le henough]

/-- A field whose FILL fails stops in the state it began in. -/
theorem readField_of_fill_eq_none {n : Nat} {s : State} (h : fill n s = none) (r : StopReason) :
    readField n r s = .stopped r s := by
  rw [readField, h]

/-- Settles O32: FILL fails exactly when the bits left do not reach `n`, and a failing field keeps its state. -/
theorem fillFailsExactlyWhenBitsRunOut : Obligations.FillFailsExactlyWhenBitsRunOut :=
  fun n s _ _ => ⟨fill_eq_none_iff n s, readField_of_fill_eq_none⟩

end Sys2Proof.Proofs

/-! PROOF. The chunked stream decoder (42_decoder.md): the two literal operations, the chunk pass, the symbol loop's short window,
and START on an empty input. -/

namespace Sys2Proof.Proofs
open Sys2Proof.Machine Sys2Proof.Laws

/-- A position that stays at or below a length does not wrap around. -/
theorem toNat_add_ofNat_of_le {pos len : BitVec 32} {n : Nat} (h : pos.toNat + n ≤ len.toNat) :
    (pos + BitVec.ofNat 32 n).toNat = pos.toNat + n := by
  have hlen := len.isLt
  rw [BitVec.toNat_add, BitVec.toNat_ofNat, Nat.add_mod_mod, Nat.mod_eq_of_lt (by omega)]

/-! ### LIT and UNASSIGNED (42 R155, R156) -/

/-- The symbols below 256, read as nine bits, are the bytes. -/
theorem decodeSymbol_setWidth (b : BitVec 8) : decodeSymbol (b.setWidth 9) = .lit b := by
  have hclear : (b.setWidth 9).getLsbD 8 = false := by simp
  have hbyte : (b.setWidth 9).extractLsb' 0 8 = b := by
    ext j hj
    simp [BitVec.getElem_extractLsb', hj, show j < 9 by omega]
  rw [decodeSymbol, hclear, hbyte]
  rfl

theorem decodeEntry_of_len_zero {e : BitVec 16} (h : entryLen e = 0) : decodeEntry e = .unassigned := by
  rw [decodeEntry, if_pos h]

theorem literalStep_of_room (b : BitVec 8) {s : State} (h : s.outPos.toNat < s.outLen.toNat) :
    literalStep b s = .next (emitByte b s) := by
  rw [literalStep, if_pos h]

theorem exec_lit (b : BitVec 8) (s : State) : exec (.lit b) s = literalStep b s := rfl

/-- The registers UNASSIGNED writes before its CONSUME (42 R156). -/
def markUnassigned (s : State) : State := setFallback { s with sym := 0, clen := 15 }

theorem exec_unassigned (s : State) :
    exec .unassigned s = literalStep 0 (consume 15 (markUnassigned s)) := rfl

theorem emitByte_outPos_toNat (b : BitVec 8) {s : State} (h : s.outPos.toNat < s.outLen.toNat) :
    (emitByte b s).outPos.toNat = s.outPos.toNat + 1 :=
  toNat_add_ofNat_of_le (Nat.succ_le_of_lt h)

theorem emitByte_read (b : BitVec 8) (s : State) (a : Nat) :
    (emitByte b s).outMem.read a = if a = s.outPos.toNat then b else s.outMem.read a := by
  rw [emitByte_outMem, read_write]

theorem advanced_consume {n : Nat} {s : State} (h : n ≤ s.cnt.toNat) : advanced s (consume n s) n :=
  ⟨available_consume h, streamBit_consume h⟩

/-- Settles O11: the registers UNASSIGNED writes and the byte it emits are no part of the stream, so the cursor moves by
its CONSUME alone. -/
theorem unassignedFallsBackToZero : Obligations.UnassignedFallsBackToZero := by
  refine ⟨fun _ => decodeEntry_of_len_zero, fun s hroom hclean hcnt => ?_⟩
  have hcnt' : 15 ≤ (markUnassigned s).cnt.toNat := hcnt
  have hclean' : accClean (markUnassigned s) := hclean
  have hroom' : (consume 15 (markUnassigned s)).outPos.toNat < (consume 15 (markUnassigned s)).outLen.toNat := hroom
  refine ⟨emitByte 0 (consume 15 (markUnassigned s)), ?_, rfl, emitByte_outPos_toNat 0 hroom', consume_cnt_toNat hcnt',
    advanced_consume hcnt', accClean_consume hclean' hcnt', emitByte_read 0 _⟩
  rw [exec_unassigned, literalStep_of_room 0 hroom']

/-- Settles O10: with room for a byte, LIT is `emitByte`. -/
theorem litEmitsItsByte : Obligations.LitEmitsItsByte := by
  refine ⟨decodeSymbol_setWidth, fun b s hroom => ⟨emitByte b s, ?_, rfl, emitByte_outPos_toNat b hroom, emitByte_read b s⟩⟩
  rw [exec_lit, literalStep_of_room b hroom]

/-! ### The chunk pass (42 R143 to R148) -/

@[simp] theorem afterTurn_outPos (s : State) : (afterTurn s).outPos = s.outPos := rfl
@[simp] theorem afterTurn_outLen (s : State) : (afterTurn s).outLen = s.outLen := rfl

theorem step_chunkPass {s : State} (hturn : coreTurn s) (hruns : jobRuns s) (hpoint : s.point = .chunkPass) :
    step s = .next (chunkPass (afterTurn s)) := by
  rw [step, fetch_of_coreTurn hturn, coreFetch_chunkPass (jobRuns_afterTurn hruns) hpoint]

theorem chunkPass_short {s : State} (hout : s.outPos.toNat < s.outLen.toNat) (hin : s.inLen.toNat - s.inPos.toNat < 256) :
    chunkPass s = jobEnd .headerShort s := by
  rw [chunkPass, if_neg (Nat.not_le.2 hout), if_pos hin]

/-- What a chunk pass leaves when the job goes on (42 R145 to R148). -/
def chunkOpened (s : State) : State := openChunk (bsReset (build (readHeader s)))

theorem chunkPass_open {s : State} (hout : s.outPos.toNat < s.outLen.toNat) (hin : 256 ≤ s.inLen.toNat - s.inPos.toNat) :
    chunkPass s = chunkOpened s := by
  rw [chunkPass, if_neg (Nat.not_le.2 hout), if_neg (Nat.not_lt.2 hin), chunkOpened]

/-- Every field of it: BUILD keeps what the header read wrote, and the accumulator and the chunk's bounds come after both. -/
theorem chunkOpened_eq (s : State) :
    chunkOpened s = { s with
      lengths := (readHeader s).lengths, tab := (build (readHeader s)).tab, count := (build (readHeader s)).count
      next := (build (readHeader s)).next, inPos := s.inPos + 256, nhdr := s.nhdr + 1, acc := 0, cnt := 0
      chunkStart := s.outPos, chunkBound := BitVec.ofNat 17 (min 65536 (s.outLen.toNat - s.outPos.toNat))
      point := .symbolLoop } := by
  have hbuild := build_frame (readHeader s)
  rw [chunkOpened]
  generalize build (readHeader s) = built at hbuild
  rw [hbuild]
  simp only [openChunk, bsReset, readHeader]

theorem chunkOpened_frame (s : State) :
    chunkOpened s = { s with
      lengths := (chunkOpened s).lengths, tab := (chunkOpened s).tab, count := (chunkOpened s).count
      next := (chunkOpened s).next, inPos := (chunkOpened s).inPos, nhdr := s.nhdr + 1, acc := 0, cnt := 0
      chunkStart := s.outPos, chunkBound := (chunkOpened s).chunkBound, point := .symbolLoop } := by
  rw [chunkOpened_eq]

theorem chunkOpened_lengths (s : State) : (chunkOpened s).lengths = (readHeader s).lengths := by rw [chunkOpened_eq]

theorem chunkOpened_tab (s : State) : (chunkOpened s).tab = (build (readHeader s)).tab := by rw [chunkOpened_eq]

theorem chunkOpened_inPos_toNat {s : State} (h : 256 ≤ s.inLen.toNat - s.inPos.toNat) :
    (chunkOpened s).inPos.toNat = s.inPos.toNat + 256 := by
  rw [chunkOpened_eq]
  exact toNat_add_ofNat_of_le (len := s.inLen) (n := 256) (by omega)

/-- `CHUNK_BOUND` is wide enough (10 R28). -/
theorem chunkOpened_chunkBound_toNat (s : State) :
    (chunkOpened s).chunkBound.toNat = min 65536 (s.outLen.toNat - s.outPos.toNat) := by
  rw [chunkOpened_eq, BitVec.toNat_ofNat]
  omega

/-- Header byte `i` holds the lengths of the symbols `2i` and `2i + 1` (30 R71). -/
theorem readHeader_lengths_pair (s : State) {i : Nat} (hi : i < 256) :
    (readHeader s).lengths.read (2 * i) = (inRead s (s.inPos.toNat + i)).extractLsb' 0 4 ∧
    (readHeader s).lengths.read (2 * i + 1) = (inRead s (s.inPos.toNat + i)).extractLsb' 4 4 := by
  have heven : 2 * i % 2 = 0 ∧ 2 * i / 2 = i := by omega
  have hodd : (2 * i + 1) % 2 = 1 ∧ (2 * i + 1) / 2 = i := by omega
  have hrange : 2 * i < 512 ∧ 2 * i + 1 < 512 := by omega
  simp [readHeader_lengths, headerNibbles, heven, hodd, hrange]

/-- BUILD reads the four memories of the table alone, so the host's pending events play no part in it. -/
theorem build_readHeader_afterTurn_tab (s : State) :
    (build (readHeader (afterTurn s))).tab = (build (readHeader s)).tab := by
  rw [build_tab, build_tab]
  rfl

/-- Settles O29: the step is `chunkOpened`, and each register it writes is said by that operation's own lemma. -/
theorem chunkPassOpensTheChunk : Obligations.ChunkPassOpensTheChunk := by
  intro s hturn hruns hpoint hout hin
  have hstep : step s = .next (chunkOpened (afterTurn s)) := by
    rw [step_chunkPass hturn hruns hpoint, chunkPass_open (s := afterTurn s) hout hin]
  have hbound : (chunkOpened (afterTurn s)).chunkBound.toNat = min 65536 (s.outLen.toNat - s.outPos.toNat) := by
    rw [chunkOpened_chunkBound_toNat, afterTurn_outLen, afterTurn_outPos]
  have hlengths (i : Nat) (hi : i < 256) := readHeader_lengths_pair (afterTurn s) hi
  rw [← chunkOpened_lengths] at hlengths
  exact ⟨chunkOpened (afterTurn s), hstep, chunkOpened_frame (afterTurn s),
    chunkOpened_inPos_toNat (s := afterTurn s) hin, hbound, hlengths,
    (chunkOpened_tab (afterTurn s)).trans (build_readHeader_afterTurn_tab s)⟩

/-- Settles O28: the header check comes before the header read, so the job ends in the state the pass began in. -/
theorem shortHeaderStopsTheJob : Obligations.ShortHeaderStopsTheJob := by
  intro s hturn hruns hpoint hout hin
  refine ⟨jobEnd .headerShort (afterTurn s), ?_, rfl⟩
  rw [step_chunkPass hturn hruns hpoint, chunkPass_short (s := afterTurn s) hout hin]

/-! ### The symbol loop (42 R149, R150) -/

theorem step_symbolLoop_of_short {s : State} (hturn : coreTurn s) (hruns : jobRuns s) (hpoint : s.point = .symbolLoop)
    (hbound : s.outPos.toNat - s.chunkStart.toNat < s.chunkBound.toNat) (hfill : fill 15 (afterTurn s) = none) :
    step s = .next (jobEnd .bitsSymbol (afterTurn s)) := by
  rw [step, fetch_of_coreTurn hturn, coreFetch_symbolLoop (jobRuns_afterTurn hruns) hpoint,
    symbolPass_short (s := afterTurn s) hbound hfill]

/-- Settles O31: fewer than 15 bits are fewer than FILL(15) needs, in the accumulator and in all. -/
theorem shortWindowStopsTheJob : Obligations.ShortWindowStopsTheJob := by
  intro s hturn hruns hpoint hbound _ hshort
  have hcnt : s.cnt.toNat < 15 := (Nat.le_add_right _ _).trans_lt hshort
  have hfill : fill 15 (afterTurn s) = none := (fill_eq_none_iff 15 (afterTurn s)).2 ⟨hcnt, hshort⟩
  exact ⟨jobEnd .bitsSymbol (afterTurn s), step_symbolLoop_of_short hturn hruns hpoint hbound hfill, rfl⟩

/-! ### START (42 R140, R141) -/

theorem exec_start (s : State) : exec .start s = execStart s := rfl

theorem execStart_of_empty {s : State} (hphase : s.phase ≠ .busy) (hin : s.inLen = 0) :
    execStart s = .next (jobEnd .invalidInput (beginJob s)) := by
  rw [execStart, if_neg hphase, if_pos hin]

/-- Settles O24: the result registers take the positions and the counter that START has just set to 0. -/
theorem startOnEmptyInputIsInvalid : Obligations.StartOnEmptyInputIsInvalid := by
  intro s hphase hin
  refine ⟨jobEnd .invalidInput (beginJob s), ?_, rfl, rfl, rfl, rfl, rfl, rfl, rfl, rfl⟩
  rw [exec_start, execStart_of_empty hphase hin]

end Sys2Proof.Proofs

/-! PROOF. Back-references (43_back_reference.md): what follows the length of every MATCH, the short matches, the cap on what a
completed back-reference copies, and MATCH.XH. The offset and the copy are the same for every length form, so what they do is
said once, for any length. -/

namespace Sys2Proof.Proofs
open Sys2Proof.Machine Sys2Proof.Laws

/-! ### The distance (43 R175, R185) -/

theorem streamField_succ (s : State) (j n : Nat) :
    streamField s j (n + 1) = streamField s j n + if streamBit s (j + n) then 2 ^ n else 0 := by
  simp [streamField, List.range_succ]

theorem streamField_lt (s : State) (j n : Nat) : streamField s j n < 2 ^ n := by
  induction n with
  | zero => simp [streamField]
  | succ n ih =>
    rw [streamField_succ, Nat.pow_succ]
    split <;> omega

/-- The copy distance, `OFFSET + 1`, when OFFX is next in the stream (43 R174, R175). -/
def streamDistance (oh : BitVec 3) (s : State) : Nat := 2 ^ oh.toNat + streamField s 0 oh.toNat

theorem streamDistance_pos (oh : BitVec 3) (s : State) : 1 ≤ streamDistance oh s :=
  Nat.le_add_right_of_le Nat.one_le_two_pow

theorem streamDistance_le (oh : BitVec 3) (s : State) : streamDistance oh s ≤ 255 := by
  have hfield := streamField_lt s 0 oh.toNat
  have hbucket : 2 ^ oh.toNat ≤ 2 ^ 7 := Nat.pow_le_pow_right (by decide) (Nat.le_of_lt_succ oh.isLt)
  unfold streamDistance
  omega

theorem offset_toNat {dist : Nat} (hpos : 1 ≤ dist) (hdist : dist ≤ 255) : (BitVec.ofNat 8 (dist - 1)).toNat + 1 = dist := by
  rw [BitVec.toNat_ofNat]
  omega

/-! ### The copy (43 R176 to R178) -/

/-- The copy is no part of the stream. -/
theorem copyMatch_keepsStream {s v : State} {n : Nat} (hadv : advanced s v n) (hclean : accClean v) :
    advanced s (copyMatch v) n ∧ accClean (copyMatch v) := by
  rcases copyMatch_spec v with ⟨_, hstop⟩ | ⟨_, hcopy, _⟩
  · rw [hstop]; exact ⟨hadv, hclean⟩
  · rw [hcopy]; exact ⟨hadv, hclean⟩

/-- The copy in a state `v` that differs from `s` in MLEN, OFFSET and the stream's cursor alone. -/
theorem copied_copyMatch {s v : State} {len dist : Nat} (hlen : len < 2 ^ 17) (hpos : 1 ≤ dist) (hdist : dist ≤ 255)
    (hsrc : dist ≤ s.outPos.toNat)
    (hsame : sameButCursor { s with mlen := BitVec.ofNat 17 len, offset := BitVec.ofNat 8 (dist - 1) } v) :
    copied s (copyMatch v) len dist := by
  have hmlen : v.mlen.toNat = len := by
    rw [hsame, BitVec.toNat_ofNat, Nat.mod_eq_of_lt hlen]
  have hoffset : v.offset.toNat + 1 = dist := by
    rw [hsame, offset_toNat hpos hdist]
  have houtPos : v.outPos = s.outPos := by rw [hsame]
  have houtLen : v.outLen = s.outLen := by rw [hsame]
  have houtMem : v.outMem = s.outMem := by rw [hsame]
  rcases copyMatch_spec v with ⟨hbefore, _⟩ | ⟨_, hcopy, hread, _⟩
  · rw [houtPos, hoffset] at hbefore
    exact absurd hsrc (Nat.not_le.2 hbefore)
  · rw [copyCount, hmlen, houtPos, houtLen] at hcopy hread
    refine ⟨?_, fun a => ?_⟩
    · rw [hcopy, hsame]; rfl
    · rw [hread, houtMem, hoffset]; rfl

/-- `copyMatch` when the source lies before OUT (43 R176). -/
theorem copyMatch_of_before {v : State} (h : v.outPos.toNat < v.offset.toNat + 1) :
    copyMatch v = jobEnd .corruptBackref v := by
  rw [copyMatch, if_pos h]

/-! ### What follows the length (43 R174 to R178) -/

/-- What a back-reference does once its length is read. -/
def copyAfterLength (oh : BitVec 3) (len : Nat) (s : State) : State :=
  offsetAndCopy oh { s with mlen := BitVec.ofNat 17 len }

/-- The offset, said once for a back-reference that began in `s` and has its length in `s1`: BITS_OFFSET, or the copy from a state
with OFFSET written and OFFX consumed (43 R174, R175). -/
theorem copyAfterLength_stopped_or_copyMatch (oh : BitVec 3) {s s1 : State} (len : Nat) (hsame : sameButCursor s s1)
    (hclean : accClean s1) :
    (available s1 < oh.toNat ∧
      copyAfterLength oh len s1 = jobEnd .bitsOffset { s1 with mlen := BitVec.ofNat 17 len }) ∨
    (oh.toNat ≤ available s1 ∧ ∃ v, copyAfterLength oh len s1 = copyMatch v ∧
      sameButCursor { s with mlen := BitVec.ofNat 17 len, offset := BitVec.ofNat 8 (streamDistance oh s1 - 1) } v ∧
      advanced s1 v oh.toNat ∧ accClean v) := by
  have hclean' : accClean { s1 with mlen := BitVec.ofNat 17 len } := hclean
  rcases offsetOperand_spec (oh := oh) hclean' with ⟨hstop, hshort⟩ | ⟨x, u, hvalue, hbits, _, hread⟩
  · exact .inl ⟨hshort, by rw [copyAfterLength, offsetAndCopy, hstop]⟩
  · have hx : 2 ^ oh.toNat + x = streamDistance oh s1 := by rw [hread.value]; rfl
    refine .inr ⟨hbits, { u with offset := BitVec.ofNat 8 (streamDistance oh s1 - 1) }, ?_, ?_, hread.advance, hread.clean⟩
    · rw [copyAfterLength, offsetAndCopy, hvalue, hx]
    · rw [sameButCursor, hread.same, hsame]

/-- What follows the length, said once: BITS_OFFSET, CORRUPT_BACKREF with nothing copied, or the copy. -/
theorem copyAfterLength_spec (oh : BitVec 3) {s s1 : State} {len : Nat} (hlen : len < 2 ^ 17)
    (hsame : sameButCursor s s1) (hclean : accClean s1) :
    (available s1 < oh.toNat ∧
      copyAfterLength oh len s1 = jobEnd .bitsOffset { s1 with mlen := BitVec.ofNat 17 len }) ∨
    (s.outPos.toNat < streamDistance oh s1 ∧
      ∃ v, copyAfterLength oh len s1 = jobEnd .corruptBackref v ∧ advanced s1 v oh.toNat ∧
        sameButCursor
          { s with mlen := BitVec.ofNat 17 len, offset := BitVec.ofNat 8 (streamDistance oh s1 - 1) } v) ∨
    (streamDistance oh s1 ≤ s.outPos.toNat ∧
      copied s (copyAfterLength oh len s1) len (streamDistance oh s1) ∧
      advanced s1 (copyAfterLength oh len s1) oh.toNat ∧ accClean (copyAfterLength oh len s1)) := by
  have hpos := streamDistance_pos oh s1
  have hdist := streamDistance_le oh s1
  rcases copyAfterLength_stopped_or_copyMatch oh len hsame hclean with hstop | ⟨_, v, hcopy, hv, hadv, hcleanv⟩
  · exact .inl hstop
  · rw [hcopy]
    by_cases hsrc : streamDistance oh s1 ≤ s.outPos.toNat
    · exact .inr (.inr ⟨hsrc, copied_copyMatch hlen hpos hdist hsrc hv, copyMatch_keepsStream hadv hcleanv⟩)
    · refine .inr (.inl ⟨Nat.lt_of_not_le hsrc, v, copyMatch_of_before ?_, hadv, hv⟩)
      rw [hv, offset_toNat hpos hdist]
      exact Nat.lt_of_not_le hsrc

theorem shortMatch_eq (lenSlot : Nat) (oh : BitVec 3) (s : State) :
    shortMatch lenSlot oh s = copyAfterLength oh (lenSlot + 3) s := rfl

/-- Settles O13: with the bits there and the source in OUT, neither stop of `copyAfterLength_spec` applies. -/
theorem shortMatchCopies : Obligations.ShortMatchCopies := by
  intro i lenSlot oh s hform hclean hbits hsrc
  obtain ⟨hexec, hslot⟩ := exec_of_short hform s
  rw [shortMatch_eq] at hexec
  rcases copyAfterLength_spec oh (len := lenSlot + 3) (by omega) (sameButCursor_refl s) hclean with
    ⟨hshort, _⟩ | ⟨hbefore, _⟩ | ⟨_, hcopied, hadv, hclean'⟩
  · exact absurd hbits (Nat.not_le.2 hshort)
  · exact absurd hsrc (Nat.not_le.2 hbefore)
  · exact ⟨_, hexec, hcopied, hadv, hclean'⟩

/-! ### A back-reference ends the job or completes -/

/-- The back-reference from `s` to `t` completed, with a length and a distance in the ranges of 43 R171 to R173 and R185. -/
def Completed (s t : State) : Prop :=
  ∃ len dist, (3 ≤ len ∧ len ≤ 65538) ∧ (1 ≤ dist ∧ dist ≤ 255) ∧ dist ≤ s.outPos.toNat ∧ copied s t len dist

theorem copyAfterLength_done_or_completed (oh : BitVec 3) {s s1 : State} {len : Nat} (hmin : 3 ≤ len) (hmax : len ≤ 65538)
    (hsame : sameButCursor s s1) (hclean : accClean s1) :
    (copyAfterLength oh len s1).phase = .done ∨ Completed s (copyAfterLength oh len s1) := by
  rcases copyAfterLength_spec oh (len := len) (by omega) hsame hclean with
    ⟨_, hstop⟩ | ⟨_, v, hstop, _⟩ | ⟨hsrc, hcopied, _⟩
  · exact .inl (by rw [hstop, jobEnd_phase])
  · exact .inl (by rw [hstop, jobEnd_phase])
  · exact .inr ⟨len, _, ⟨hmin, hmax⟩, ⟨streamDistance_pos oh s1, streamDistance_le oh s1⟩, hsrc, hcopied⟩

theorem extendedMatch_of_stopped {oh : BitVec 3} {s s1 : State} {r : StopReason} (h : extendedLength s = .stopped r s1) :
    extendedMatch oh s = jobEnd r s1 := by
  rw [extendedMatch, h]

theorem extendedMatch_of_value {oh : BitVec 3} {s s1 : State} {len : Nat} (h : extendedLength s = .value len s1) :
    extendedMatch oh s = copyAfterLength oh len s1 := by
  rw [extendedMatch, h, copyAfterLength]

theorem extendedMatch_done_or_completed (oh : BitVec 3) {s : State} (hclean : accClean s) :
    (extendedMatch oh s).phase = .done ∨ Completed s (extendedMatch oh s) := by
  rcases extendedLength_spec hclean with
    ⟨hstop, _⟩ | ⟨v8, s1, hlen, _, _, hread⟩ | ⟨s1, hstop, _⟩ | ⟨v16, s1, s2, hlen, hread8, _, hread16⟩
  · exact .inl (by rw [extendedMatch_of_stopped hstop, jobEnd_phase])
  · rw [extendedMatch_of_value hlen]
    exact copyAfterLength_done_or_completed oh (by omega) (by omega) hread.same hread.clean
  · exact .inl (by rw [extendedMatch_of_stopped hstop, jobEnd_phase])
  · rw [extendedMatch_of_value hlen]
    exact copyAfterLength_done_or_completed oh (by omega) (by omega) (sameButCursor_trans hread8.same hread16.same)
      hread16.clean

theorem match_done_or_completed {i : Instr} {form : LengthForm} {oh : BitVec 3} {s t : State}
    (hform : i.matchForm = some (form, oh)) (hclean : accClean s) (hexec : exec i s = .next t) :
    t.phase = .done ∨ Completed s t := by
  cases form with
  | short lenSlot =>
    obtain ⟨hshort, hslot⟩ := exec_of_short hform s
    obtain rfl : shortMatch lenSlot oh s = t := Host.Outcome.next.inj (hshort.symm.trans hexec)
    rw [shortMatch_eq]
    exact copyAfterLength_done_or_completed oh (by omega) (by omega) (sameButCursor_refl s) hclean
  | extended =>
    obtain rfl : extendedMatch oh s = t := Host.Outcome.next.inj ((exec_of_extended hform s).symm.trans hexec)
    exact extendedMatch_done_or_completed oh hclean

/-! ### What a completed back-reference leaves in its registers (43 R177, R185) -/

section
variable {s t : State} {len dist : Nat}

theorem copied_outLen (h : copied s t len dist) : t.outLen = s.outLen := by rw [h.1]

theorem copied_mlen_toNat (h : copied s t len dist) (hlen : len ≤ 65538) : t.mlen.toNat = len := by
  have hmlen : t.mlen = BitVec.ofNat 17 len := congrArg State.mlen h.1
  rw [hmlen, BitVec.toNat_ofNat, Nat.mod_eq_of_lt (by omega)]

theorem copied_offset_toNat (h : copied s t len dist) (hpos : 1 ≤ dist) (hdist : dist ≤ 255) : t.offset.toNat + 1 = dist := by
  have hoffset : t.offset = BitVec.ofNat 8 (dist - 1) := congrArg State.offset h.1
  rw [hoffset, offset_toNat hpos hdist]

theorem copied_ncopy_toNat (h : copied s t len dist) (hlen : len ≤ 65538) : t.ncopy.toNat = copyCount s len := by
  have hncopy : t.ncopy = BitVec.ofNat 17 (copyCount s len) := congrArg State.ncopy h.1
  have hcount : copyCount s len ≤ len := Nat.min_le_left _ _
  rw [hncopy, BitVec.toNat_ofNat, Nat.mod_eq_of_lt (by omega)]

theorem copied_outPos_toNat (h : copied s t len dist) (hroom : s.outPos.toNat ≤ s.outLen.toNat) :
    t.outPos.toNat = s.outPos.toNat + copyCount s len := by
  have houtPos : t.outPos = s.outPos + BitVec.ofNat 32 (copyCount s len) := congrArg State.outPos h.1
  have hcap : copyCount s len ≤ s.outLen.toNat - s.outPos.toNat := Nat.min_le_right _ _
  rw [houtPos, toNat_add_ofNat_of_le (len := s.outLen) (by omega)]

end

/-- Settles O22: a job that still runs was ended by none of the stops, so the back-reference completed. -/
theorem completedMatchIsCapped : Obligations.CompletedMatchIsCapped := by
  intro i form oh s t hform hclean _ hroom hexec hphase
  rcases match_done_or_completed hform hclean hexec with hdone | ⟨len, dist, ⟨hmin, hmax⟩, ⟨hpos, hdist⟩, hsrc, hcopied⟩
  · exact absurd (hdone.symm.trans hphase) (by decide)
  · have hcount : copyCount s len = min len (s.outLen.toNat - s.outPos.toNat) := rfl
    rw [copied_ncopy_toNat hcopied hmax, copied_mlen_toNat hcopied hmax, copied_outPos_toNat hcopied hroom.le,
      copied_outLen hcopied, copied_offset_toNat hcopied hpos hdist]
    exact ⟨hcount, rfl, by omega, by omega, hdist, hsrc⟩

/-! ### MATCH.XH (43 R182) -/

theorem decodeSymbol_of_match {σ : BitVec 9} (h : σ.getLsbD 8 = true) :
    decodeSymbol σ = decodeMatch (σ.extractLsb' 3 5) (σ.extractLsb' 0 3) := by
  rw [decodeSymbol, if_pos h]

theorem decodeMatch_of_high {lenSlot : BitVec 5} (h : 16 ≤ lenSlot.toNat) (oh : BitVec 3) :
    decodeMatch lenSlot oh = .matchXH lenSlot oh := by
  obtain ⟨k, hk⟩ := Nat.exists_eq_add_of_le' h
  rw [decodeMatch, hk]
  rfl

/-- Bit 7 of a symbol is the highest bit of `lenSlot`. -/
theorem le_lenSlot_of_bit {σ : BitVec 9} (h : σ.getLsbD 7 = true) : 16 ≤ (σ.extractLsb' 3 5).toNat := by
  have hbit : (σ.extractLsb' 3 5).getLsbD 4 = true := by rw [BitVec.getLsbD_extractLsb', h]; rfl
  exact Nat.ge_two_pow_of_testBit hbit

/-- Settles O16: `lenSlot` of 16 or more selects MATCH.XH, and MATCH.X and MATCH.XH are the one `extendedMatch`. -/
theorem matchXHBehavesAsMatchX : Obligations.MatchXHBehavesAsMatchX := by
  refine ⟨fun σ hmatch hhigh => ?_, fun lenSlot oh s => ?_⟩
  · rw [decodeSymbol_of_match hmatch, decodeMatch_of_high (le_lenSlot_of_bit hhigh)]
  · have hxh : exec (.matchXH lenSlot oh) s = .next (extendedMatch oh s) := exec_of_extended rfl s
    have hx : exec (.matchX oh) s = .next (extendedMatch oh s) := exec_of_extended rfl s
    exact hxh.trans hx.symm

end Sys2Proof.Proofs

/-! PROOF. The core outside a job (60 R214): its turn takes at most an event off the host's list, and PHASE alone decides that it
has no operation. -/

namespace Sys2Proof.Proofs
open Sys2Proof.Machine Sys2Proof.Laws

@[simp] theorem afterTurn_phase (s : State) : (afterTurn s).phase = s.phase := rfl

/-- Settles O9: taking the core's turn leaves PHASE as it was, so the core that fetches is still outside a job. -/
theorem coreRestsWhenNotBusy : Obligations.CoreRestsWhenNotBusy := by
  intro s hturn hphase
  have hidle : (afterTurn s).phase ≠ .busy := by rwa [afterTurn_phase]
  rw [step, fetch_of_coreTurn hturn, coreFetch_idle hidle]

end Sys2Proof.Proofs

/-! PROOF. Encoding and decoding (30_encoding.md): a symbol and its operation determine each other, the entry that the stream
selects runs its operation, a COPY's expansion stands for its length and distance, and the header read recovers the packed
lengths. -/

namespace Sys2Proof.Proofs
open Sys2Proof.Machine Sys2Proof.Laws

/-! ### The bits of a symbol (30 R73) -/

theorem symbol_top_bit (σ : BitVec 9) : σ.extractLsb' 8 1 = BitVec.ofBool (σ.getLsbD 8) := by
  ext j hj
  obtain rfl : j = 0 := by omega
  simp [BitVec.getLsbD_eq_getElem]

theorem symbol_append_byte (σ : BitVec 9) : BitVec.ofBool (σ.getLsbD 8) ++ σ.extractLsb' 0 8 = σ := by
  rw [← symbol_top_bit]
  exact (BitVec.extractLsb'_append_extractLsb'_eq_extractLsb' (by decide)).trans BitVec.extractLsb'_eq_self

theorem matchSymbol_extractLsb' {σ : BitVec 9} (h : σ.getLsbD 8 = true) :
    matchSymbol (σ.extractLsb' 3 5) (σ.extractLsb' 0 3) = σ := by
  have hbyte : σ.extractLsb' 3 5 ++ σ.extractLsb' 0 3 = σ.extractLsb' 0 8 :=
    BitVec.extractLsb'_append_extractLsb'_eq_extractLsb' (by decide)
  have hassoc : matchSymbol (σ.extractLsb' 3 5) (σ.extractLsb' 0 3) =
      1#1 ++ (σ.extractLsb' 3 5 ++ σ.extractLsb' 0 3) := BitVec.append_assoc
  have hσ := symbol_append_byte σ
  rw [h] at hσ
  rw [hassoc, hbyte]
  exact hσ

/-- The three parts of a back-reference symbol. -/
theorem matchSymbol_parts (lenSlot : BitVec 5) (oh : BitVec 3) :
    (matchSymbol lenSlot oh).getLsbD 8 = true ∧ (matchSymbol lenSlot oh).extractLsb' 3 5 = lenSlot ∧
      (matchSymbol lenSlot oh).extractLsb' 0 3 = oh := by
  refine ⟨?_, ?_, BitVec.extractLsb'_append_eq_right⟩
  · rw [matchSymbol, BitVec.getLsbD_cast, BitVec.getLsbD_append, BitVec.getLsbD_append]
    rfl
  · exact (BitVec.extractLsb'_append_eq_of_le (xhi := 1#1 ++ lenSlot) (xlo := oh) le_rfl).trans
      BitVec.extractLsb'_append_eq_right

/-! ### Symbols and operations (30 R73, R78) -/

/-- Below 15, `lenSlot` selects the short match of that slot. -/
theorem decodeMatch_matchForm_of_low {lenSlot : BitVec 5} (h : lenSlot.toNat < 15) (oh : BitVec 3) :
    (decodeMatch lenSlot oh).matchForm = some (.short lenSlot.toNat, oh) := by
  rw [decodeMatch]
  generalize lenSlot.toNat = slot at h ⊢
  interval_cases slot <;> rfl

/-- A back-reference symbol stands for a well-formed operation whose symbol it is. -/
theorem decodeMatch_wellFormed_symbol (lenSlot : BitVec 5) (oh : BitVec 3) :
    (decodeMatch lenSlot oh).wellFormed = true ∧ (decodeMatch lenSlot oh).symbol = some (matchSymbol lenSlot oh) := by
  rcases Nat.lt_or_ge lenSlot.toNat 16 with hlow | hhigh
  · obtain ⟨slot, hslot, rfl⟩ : ∃ slot, slot < 16 ∧ lenSlot = BitVec.ofNat 5 slot := ⟨lenSlot.toNat, hlow, by simp⟩
    interval_cases slot <;> exact ⟨rfl, rfl⟩
  · rw [decodeMatch_of_high hhigh]
    exact ⟨decide_eq_true hhigh, rfl⟩

theorem decodeSymbol_of_literal {σ : BitVec 9} (h : σ.getLsbD 8 = false) : decodeSymbol σ = .lit (σ.extractLsb' 0 8) := by
  rw [decodeSymbol, h]
  rfl

/-- Every symbol stands for a well-formed operation whose symbol it is. -/
theorem decodeSymbol_wellFormed_symbol (σ : BitVec 9) :
    (decodeSymbol σ).wellFormed = true ∧ (decodeSymbol σ).symbol = some σ := by
  cases h : σ.getLsbD 8 with
  | false =>
    have hσ := symbol_append_byte σ
    rw [h] at hσ
    rw [decodeSymbol_of_literal h]
    exact ⟨rfl, congrArg some hσ⟩
  | true =>
    rw [decodeSymbol_of_match h]
    obtain ⟨hwf, hsym⟩ := decodeMatch_wellFormed_symbol (σ.extractLsb' 3 5) (σ.extractLsb' 0 3)
    exact ⟨hwf, by rw [hsym, matchSymbol_extractLsb' h]⟩

theorem decodeSymbol_matchSymbol (lenSlot : BitVec 5) (oh : BitVec 3) :
    decodeSymbol (matchSymbol lenSlot oh) = decodeMatch lenSlot oh := by
  obtain ⟨htop, hslot, hoh⟩ := matchSymbol_parts lenSlot oh
  rw [decodeSymbol_of_match htop, hslot, hoh]

theorem decodeSymbol_litSymbol (b : BitVec 8) : decodeSymbol ((0#1 ++ b).cast (by decide)) = .lit b := by
  have htop : (0#1 ++ b).getLsbD 8 = false := by rw [BitVec.getLsbD_append]; rfl
  exact (decodeSymbol_of_literal htop).trans (congrArg Instr.lit BitVec.extractLsb'_append_eq_right)

/-- The symbol of a well-formed operation decodes to it. -/
theorem decodeSymbol_of_symbol {i : Instr} {σ : BitVec 9} (hwf : i.wellFormed = true) (h : i.symbol = some σ) :
    decodeSymbol σ = i := by
  cases i with
  | lit b => exact Option.some.inj h ▸ decodeSymbol_litSymbol b
  | matchXH lenSlot oh =>
    rw [← Option.some.inj h, decodeSymbol_matchSymbol]
    exact decodeMatch_of_high (of_decide_eq_true hwf) oh
  | unassigned => exact absurd h (by simp [Instr.symbol])
  | start => exact absurd h (by simp [Instr.symbol])
  | _ oh => exact Option.some.inj h ▸ decodeSymbol_matchSymbol _ oh

/-- An operation with a symbol is encoded as that symbol. -/
theorem encode_of_symbol {i : Instr} {σ : BitVec 9} (h : i.symbol = some σ) : encode i = .sym9 σ := by
  cases i with
  | unassigned => exact absurd h (by simp [Instr.symbol])
  | start => exact absurd h (by simp [Instr.symbol])
  | _ => exact congrArg (fun σ => CodeWord.sym9 (Option.getD σ 0)) h

theorem decode_encode {i : Instr} (hwf : i.wellFormed = true) : decode (encode i) = .ok i := by
  cases h : i.symbol with
  | some σ => rw [encode_of_symbol h, decode, decodeSymbol_of_symbol hwf h]
  | none =>
    cases i with
    | unassigned => rfl
    | start => rfl
    | _ => exact absurd h (by simp [Instr.symbol])

/-- An entry with a code length stands for its symbol's operation (30 R75). -/
theorem decodeEntry_tableEntry {len : BitVec 4} (hlen : len ≠ 0) (σ : BitVec 9) :
    decodeEntry (tableEntry len σ) = decodeSymbol σ := by
  rw [decodeEntry, entryLen_tableEntry, if_neg hlen, entrySym_tableEntry]

/-- Settles O1: each word is closed, and the decoder evaluates on it. -/
theorem writtenWordsDecode : Obligations.WrittenWordsDecode := by
  refine ⟨?_, ?_, ?_, ?_, ?_, ?_, ?_, ?_, ?_, ?_, ?_⟩ <;> rfl

/-- Settles O2: a symbol's operation has that symbol, and a well-formed operation's symbol decodes to it. -/
theorem decodeAndEncodeAgree : Obligations.DecodeAndEncodeAgree := by
  refine ⟨fun σ => ?_, fun i hwf => ⟨decode_encode hwf, fun σ len hsym hlen => ?_⟩⟩
  · obtain ⟨hwf, hsym⟩ := decodeSymbol_wellFormed_symbol σ
    exact ⟨hwf, hsym, encode_of_symbol hsym⟩
  · rw [decodeEntry_tableEntry hlen, decodeSymbol_of_symbol hwf hsym]

/-! ### COPY (30 R83) -/

/-- The bucket of a distance of 1 to 255: its highest bit's place, with the rest below that bit. -/
theorem log2_bucket {dist : Nat} (hpos : 1 ≤ dist) (hmax : dist ≤ 255) :
    Nat.log2 dist < 8 ∧ 2 ^ Nat.log2 dist ≤ dist ∧ dist < 2 * 2 ^ Nat.log2 dist ∧ 2 ^ Nat.log2 dist ≤ 128 := by
  have hne : dist ≠ 0 := by omega
  have hlog : Nat.log2 dist < 8 := (Nat.log2_lt hne).2 (by omega)
  have hpow : 2 ^ Nat.log2 dist ≤ 2 ^ 7 := Nat.pow_le_pow_right (by decide) (by omega)
  refine ⟨hlog, Nat.log2_self_le hne, ?_, hpow⟩
  rw [← Nat.pow_succ']
  exact Nat.lt_log2_self

/-- The bucket `oh` of a distance (30 R77, R83). -/
def distanceBucket (dist : Nat) : BitVec 3 := BitVec.ofNat 3 (Nat.log2 dist)

/-- The OFFX that places a distance in its bucket (30 R77, R83). -/
def distanceOffx (dist : Nat) : BitVec 7 := BitVec.ofNat 7 (dist - 2 ^ Nat.log2 dist)

theorem distanceBucket_toNat {dist : Nat} (hpos : 1 ≤ dist) (hmax : dist ≤ 255) :
    (distanceBucket dist).toNat = Nat.log2 dist := by
  have hlog := (log2_bucket hpos hmax).1
  rw [distanceBucket, BitVec.toNat_ofNat]
  omega

theorem distanceOffx_toNat {dist : Nat} (hpos : 1 ≤ dist) (hmax : dist ≤ 255) :
    (distanceOffx dist).toNat = dist - 2 ^ Nat.log2 dist := by
  obtain ⟨-, hle, hlt, hpow⟩ := log2_bucket hpos hmax
  rw [distanceOffx, BitVec.toNat_ofNat]
  omega

theorem expand_short {len : Nat} (dist : Nat) (h : len ≤ 17) : Copy.expand ⟨len, dist⟩ =
    (decodeMatch (BitVec.ofNat 5 (len - 3)) (distanceBucket dist), ⟨none, none, distanceOffx dist⟩) := by
  rw [Copy.expand, if_pos h]
  rfl

theorem expand_len8 {len : Nat} (dist : Nat) (h : 17 < len) (h' : len ≤ 272) : Copy.expand ⟨len, dist⟩ =
    (.matchX (distanceBucket dist), ⟨some (BitVec.ofNat 8 (len - 18)), none, distanceOffx dist⟩) := by
  rw [Copy.expand, if_neg (Nat.not_le.2 h), if_pos h']
  rfl

theorem expand_len16 {len : Nat} (dist : Nat) (h : 272 < len) : Copy.expand ⟨len, dist⟩ =
    (.matchX (distanceBucket dist), ⟨some 255, some (BitVec.ofNat 16 (len - 3)), distanceOffx dist⟩) := by
  rw [Copy.expand, if_neg (by dsimp only; omega), if_neg (Nat.not_le.2 h)]
  rfl

/-- 30 R74 taken apart: the three shapes that well-formed fields have. -/
theorem fields_wellFormed_iff (form : LengthForm) (oh : BitVec 3) (f : Fields) :
    f.wellFormed form oh = true ↔ f.offx.toNat < 2 ^ oh.toNat ∧
      ((∃ slot, form = .short slot ∧ f.len8 = none ∧ f.len16 = none) ∨
        (∃ v8, form = .extended ∧ f.len8 = some v8 ∧ f.len16 = none ∧ v8.toNat < 255) ∨
        ∃ v8 v16, form = .extended ∧ f.len8 = some v8 ∧ f.len16 = some v16 ∧ v8.toNat = 255) := by
  obtain ⟨len8, len16, offx⟩ := f
  cases form with
  | short slot => cases len8 <;> cases len16 <;> simp [Fields.wellFormed]
  | extended => cases len8 <;> cases len16 <;> simp [Fields.wellFormed]

/-- OFFX and `oh` of a distance stand for it, behind any length fields. -/
theorem distance_of_offx {dist : Nat} (hpos : 1 ≤ dist) (hmax : dist ≤ 255) (len8 : Option (BitVec 8))
    (len16 : Option (BitVec 16)) :
    (distanceOffx dist).toNat < 2 ^ (distanceBucket dist).toNat ∧
      Fields.distance (distanceBucket dist) ⟨len8, len16, distanceOffx dist⟩ = dist := by
  obtain ⟨-, hle, hlt, -⟩ := log2_bucket hpos hmax
  rw [Fields.distance, distanceBucket_toNat hpos hmax, distanceOffx_toNat hpos hmax]
  omega

/-- Settles O5: one case for each length form that a length calls for; the distance is the same in all three. -/
theorem copyExpandsToItsLengthAndDistance : Obligations.CopyExpandsToItsLengthAndDistance := by
  rintro ⟨len, dist⟩ hwf
  obtain ⟨hlen, hlenMax, hpos, hmax⟩ : 3 ≤ len ∧ len ≤ 65538 ∧ 1 ≤ dist ∧ dist ≤ 255 := of_decide_eq_true hwf
  have hdist (len8) (len16) := distance_of_offx hpos hmax len8 len16
  rcases Nat.lt_or_ge 17 len with hlong | hshort
  · rcases Nat.lt_or_ge 272 len with hlen16 | hlen8
    · have hvalue : (BitVec.ofNat 16 (len - 3)).toNat + 3 = len := by rw [BitVec.toNat_ofNat]; omega
      rw [expand_len16 dist hlen16]
      exact ⟨.extended, _, rfl, rfl,
        (fields_wellFormed_iff _ _ _).2 ⟨(hdist none none).1, .inr (.inr ⟨255, _, rfl, rfl, rfl, by decide⟩)⟩,
        hvalue, (hdist _ _).2⟩
    · have hbyte : (BitVec.ofNat 8 (len - 18)).toNat = len - 18 := by rw [BitVec.toNat_ofNat]; omega
      have hvalue : (BitVec.ofNat 8 (len - 18)).toNat + 18 = len := by omega
      rw [expand_len8 dist hlong hlen8]
      exact ⟨.extended, _, rfl, rfl,
        (fields_wellFormed_iff _ _ _).2 ⟨(hdist none none).1, .inr (.inl ⟨_, rfl, rfl, rfl, by omega⟩)⟩, hvalue,
        (hdist _ _).2⟩
  · have hslot : (BitVec.ofNat 5 (len - 3)).toNat = len - 3 := by rw [BitVec.toNat_ofNat]; omega
    have hvalue : (BitVec.ofNat 5 (len - 3)).toNat + 3 = len := by omega
    rw [expand_short dist hshort]
    exact ⟨.short _, _, decodeMatch_matchForm_of_low (by omega) _, (decodeMatch_wellFormed_symbol _ _).1,
      (fields_wellFormed_iff _ _ _).2 ⟨(hdist none none).1, .inl ⟨_, rfl, rfl, rfl⟩⟩, hvalue, (hdist _ _).2⟩

/-! ### The header (30 R71, 42 R145) -/

theorem headerNibbles_headerByte (even odd : BitVec 4) : headerNibbles (headerByte even odd) = (even, odd) :=
  Prod.ext BitVec.extractLsb'_append_eq_right BitVec.extractLsb'_append_eq_left

/-- Settles O6: symbol `sym` has its nibble in header byte `sym / 2`. -/
theorem headerReadRecoversPackedLengths : Obligations.HeaderReadRecoversPackedLengths := by
  refine fun s packed hpacked => ⟨fun sym hsym => ?_, by simp only [readHeader]⟩
  rw [readHeader_lengths, if_pos hsym, hpacked (sym / 2) (by omega), headerNibbles_headerByte]
  rcases Nat.mod_two_eq_zero_or_one sym with heven | hodd
  · rw [if_pos heven, show 2 * (sym / 2) = sym by omega]
  · rw [if_neg (by omega), show 2 * (sym / 2) + 1 = sym by omega]

end Sys2Proof.Proofs

/-! PROOF. What FILL keeps (41 R121), and the rest of the canonical table (40_table_builder.md): which slots are assigned. The
codes of the lengths `1 .. len` fill TAB from slot 0 on without a gap, so a code that fills the space reaches every slot. -/

namespace Sys2Proof.Proofs
open Sys2Proof.Machine Sys2Proof.Laws

/-! ### FILL (41 R121) -/

theorem filled_of_fill {n : Nat} {s t : State} (hclean : accClean s) (hn : n ≤ 16) (h : fill n s = some t) : Filled n s t := by
  rcases fill_spec hclean hn with ⟨hnone, _⟩ | ⟨t', hsome, hfilled⟩
  · exact absurd (hnone.symm.trans h) (by simp)
  · rwa [← Option.some.inj (hsome.symm.trans h)]

theorem fill_of_enough {n : Nat} {s : State} (h : n ≤ s.cnt.toNat) : fill n s = some s := by
  rw [fill, if_pos h]

/-- Settles O33: `Filled` says it, and with enough bits buffered FILL pulls nothing. -/
theorem fillKeepsTheStream : Obligations.FillKeepsTheStream := by
  intro n s t _ hn hclean hfill
  have hfilled := filled_of_fill hclean hn hfill
  refine ⟨hfilled.same, hfilled.clean, hfilled.least, fun henough => ?_, fun hshort => ?_, hfilled.avail, hfilled.stream⟩
  · exact Option.some.inj (hfill.symm.trans (fill_of_enough henough))
  · have hmost := hfilled.most
    omega

/-! ### The slots of one length (40 R103 to R105) -/

/-- The `q`-th symbol of a length is a symbol. -/
theorem exists_symbol_of_lt_countBelow {lengths : Memory 4} {len n q : Nat} (h : q < countBelow lengths len n) :
    ∃ sym, sym < n ∧ (lengths.read sym).toNat = len ∧ countBelow lengths len sym = q := by
  induction n with
  | zero => exact absurd h (Nat.not_lt_zero q)
  | succ n ih =>
    by_cases hq : q < countBelow lengths len n
    · obtain ⟨sym, hsym, hlen, hcount⟩ := ih hq
      exact ⟨sym, hsym.trans n.lt_succ_self, hlen, hcount⟩
    · rw [countBelow_succ] at h
      by_cases hlen : (lengths.read n).toNat = len
      · rw [if_pos hlen] at h
        exact ⟨n, n.lt_succ_self, hlen, by omega⟩
      · rw [if_neg hlen] at h
        exact absurd h hq

/-- How many slots the symbols of length `len` fill when every code fits (40 R105). -/
def slotsOfLength (lengths : Memory 4) (len : Nat) : Nat := countOf lengths len * 2 ^ (15 - len)

/-- The slots of the lengths `1 .. n`: where those of length `n` end. -/
def slotsUpTo (lengths : Memory 4) (n : Nat) : Nat := ((List.range' 1 n).map (slotsOfLength lengths)).sum

@[simp] theorem slotsUpTo_zero (lengths : Memory 4) : slotsUpTo lengths 0 = 0 := rfl

theorem slotsUpTo_succ (lengths : Memory 4) (n : Nat) :
    slotsUpTo lengths (n + 1) = slotsUpTo lengths n + slotsOfLength lengths (n + 1) := by
  simp [slotsUpTo, List.range'_concat, Nat.add_comm 1 n]

/-- The first code of a length begins where the slots of the shorter lengths end (40 R103). -/
theorem firstCode_mul_eq_slotsUpTo (lengths : Memory 4) {n : Nat} (hn : n + 1 ≤ 15) :
    firstCode lengths (n + 1) * 2 ^ (15 - (n + 1)) = slotsUpTo lengths n := by
  induction n with
  | zero => simp [firstCode]
  | succ n ih =>
    have hpow : 2 ^ (15 - (n + 1)) = 2 * 2 ^ (15 - (n + 1 + 1)) := by
      rw [← Nat.pow_succ']
      congr 1
      omega
    calc firstCode lengths (n + 1 + 1) * 2 ^ (15 - (n + 1 + 1))
        = (firstCode lengths (n + 1) + countOf lengths (n + 1)) * 2 ^ (15 - (n + 1)) := by
          rw [firstCode_succ lengths n.succ_pos, hpow, Nat.mul_assoc]
      _ = slotsUpTo lengths (n + 1) := by
          rw [Nat.add_mul, ih (by omega), slotsUpTo_succ, slotsOfLength]

/-- The slots of one length lie from the end of the shorter lengths' slots up to the end of its own. -/
theorem exists_slotOf_of_length {lengths : Memory 4} {n i : Nat} (hn : n + 1 ≤ 15) (hlo : slotsUpTo lengths n ≤ i)
    (hhi : i < slotsUpTo lengths (n + 1)) : ∃ sym, sym < 512 ∧ slotOf lengths sym i := by
  have hfirst := firstCode_mul_eq_slotsUpTo lengths hn
  rw [slotsUpTo_succ, slotsOfLength, ← hfirst, ← Nat.add_mul] at hhi
  rw [← hfirst] at hlo
  have hle : firstCode lengths (n + 1) ≤ i / 2 ^ (15 - (n + 1)) := (Nat.le_div_iff_mul_le (by positivity)).2 hlo
  have hlt : i / 2 ^ (15 - (n + 1)) < firstCode lengths (n + 1) + countOf lengths (n + 1) :=
    (Nat.div_lt_iff_lt_mul (by positivity)).2 hhi
  obtain ⟨q, hq⟩ := Nat.exists_eq_add_of_le hle
  have hcount : q < countBelow lengths (n + 1) 512 := by rw [countBelow_all]; omega
  obtain ⟨sym, hsym, hlen, hplace⟩ := exists_symbol_of_lt_countBelow hcount
  refine ⟨sym, hsym, ?_, ?_⟩
  · rw [hlen]; exact n.succ_pos
  · rw [Nat.shiftRight_eq_div_pow, canonicalCode_eq, hlen, hplace, hq]

/-- Every slot before the end of a length's slots has a symbol. -/
theorem exists_slotOf_of_lt_slotsUpTo {lengths : Memory 4} {n i : Nat} (hn : n ≤ 15) (h : i < slotsUpTo lengths n) :
    ∃ sym, sym < 512 ∧ slotOf lengths sym i := by
  induction n with
  | zero => exact absurd h (Nat.not_lt_zero i)
  | succ n ih =>
    rcases Nat.lt_or_ge i (slotsUpTo lengths n) with hlt | hge
    · exact ih (by omega) hlt
    · exact exists_slotOf_of_length hn hge h

/-! ### The entries of the table -/

theorem decodeEntry_symbolEntry_of_literal {lengths : Memory 4} {sym : Nat} (hlen : lengths.read sym ≠ 0) (h : sym < 256) :
    decodeEntry (symbolEntry lengths sym) = .lit (BitVec.ofNat 8 sym) := by
  have hsym : BitVec.ofNat 9 sym = (BitVec.ofNat 8 sym).setWidth 9 := by
    apply BitVec.eq_of_toNat_eq
    rw [BitVec.toNat_setWidth, BitVec.toNat_ofNat, BitVec.toNat_ofNat]
    omega
  rw [symbolEntry, decodeEntry_tableEntry hlen, hsym, decodeSymbol_setWidth]

theorem length_ne_zero_of_slotOf {lengths : Memory 4} {sym i : Nat} (h : slotOf lengths sym i) : lengths.read sym ≠ 0 :=
  fun h0 => absurd h.1 (by simp [h0])

/-- Settles O35: placing writes a symbol's slots alone. -/
theorem buildLeavesOtherSlotsUnassigned : Obligations.BuildLeavesOtherSlotsUnassigned :=
  fun s _ hi hnone => build_tab_of_no_slotOf s hi hnone

/-- Settles O36: a slot's top bits are the code of one symbol of each length, and codes of different lengths do not meet. -/
theorem slotsOfTwoSymbolsAreDisjoint : Obligations.SlotsOfTwoSymbolsAreDisjoint :=
  fun _ _ _ _ hsym hsym' _ h h' => slotOf_unique hsym hsym' h h'

/-- Settles O39: the sum is where the slots of length 15 end, so every slot comes before it and has a symbol. -/
theorem completeCodeLeavesNoSlotUnassigned : Obligations.CompleteCodeLeavesNoSlotUnassigned := by
  intro s hsum i hi
  have hend : slotsUpTo s.lengths 15 = 2 ^ 15 := hsum
  obtain ⟨sym, hsym, hslot⟩ := exists_slotOf_of_lt_slotsUpTo (lengths := s.lengths) (n := 15) (i := i) le_rfl (by omega)
  rw [build_tab_of_slotOf s hsym hi hslot, symbolEntry, entryLen_tableEntry]
  exact length_ne_zero_of_slotOf hslot

/-- Settles O41: an assigned slot's symbol has a length, so it is a literal. -/
theorem literalOnlyHeaderNeverCopies : Obligations.LiteralOnlyHeaderNeverCopies := by
  intro s hlit i hi
  rcases build_tab_cases s hi with ⟨sym, hsym, hslot, hread⟩ | ⟨-, hread⟩
  · have hlen := length_ne_zero_of_slotOf hslot
    have hlow : sym < 256 := Nat.lt_of_not_le fun hhigh => hlen (hlit sym hhigh hsym)
    exact .inr ⟨_, by rw [hread, decodeEntry_symbolEntry_of_literal hlen hlow]⟩
  · exact .inl (by rw [hread]; rfl)

end Sys2Proof.Proofs

/-! PROOF. The extended matches and the stops of a back-reference (43_back_reference.md), and the operand fields as they stand in
the stream (30 R74). Every length form reaches `copyAfterLength` with its length fields consumed; what follows is said once, for
all of them. -/

namespace Sys2Proof.Proofs
open Sys2Proof.Machine Sys2Proof.Laws

/-! ### Reading on in the stream -/

theorem advanced_trans {s t u : State} {n m : Nat} (h : advanced s t n) (h' : advanced t u m) : advanced s u (n + m) := by
  obtain ⟨havail, hbits⟩ := h
  obtain ⟨havail', hbits'⟩ := h'
  exact ⟨by omega, fun j => by rw [hbits', hbits, Nat.add_assoc]⟩

theorem advanced_zero (s : State) : advanced s s 0 := ⟨rfl, fun j => by rw [Nat.zero_add]⟩

theorem streamField_of_advanced {s t : State} {n : Nat} (h : advanced s t n) (j m : Nat) :
    streamField t j m = streamField s (n + j) m := by
  simp only [streamField, h.2, Nat.add_assoc]

/-! ### The length fields (43 R172, R173) -/

theorem sameButCursor_mlen {s s1 : State} (h : sameButCursor s s1) (m : BitVec 17) :
    { s1 with mlen := m } = { s with acc := s1.acc, cnt := s1.cnt, inPos := s1.inPos, mlen := m } := by
  rw [h]

theorem advanced_mlen {s s1 : State} {n : Nat} (h : advanced s s1 n) (m : BitVec 17) :
    advanced s { s1 with mlen := m } n := h

/-- A back-reference that began in `s` stands in `s1` with its length read: `n` bits of length fields are consumed. -/
structure LengthRead (s s1 : State) (n : Nat) : Prop where
  same : sameButCursor s s1
  clean : accClean s1
  advance : advanced s s1 n

theorem lengthRead_refl {s : State} (h : accClean s) : LengthRead s s 0 := ⟨sameButCursor_refl s, h, advanced_zero s⟩

theorem lengthRead_of_field {s s1 : State} {n v : Nat} (h : FieldRead n v s s1) : LengthRead s s1 n :=
  ⟨h.same, h.clean, h.advance⟩

theorem lengthRead_trans {s s1 s2 : State} {n m : Nat} (h : LengthRead s s1 n) (h' : LengthRead s1 s2 m) :
    LengthRead s s2 (n + m) :=
  ⟨sameButCursor_trans h.same h'.same, h'.clean, advanced_trans h.advance h'.advance⟩

/-- The extended form by what the stream holds: BITS_LEN8, the length from LEN8, BITS_LEN16, or the length from LEN16. -/
theorem extendedMatch_cases (oh : BitVec 3) {s : State} (hclean : accClean s) :
    (available s < 8 ∧ extendedMatch oh s = jobEnd .bitsLen8 s) ∨
    (8 ≤ available s ∧ streamField s 0 8 < 255 ∧ ∃ s1, LengthRead s s1 8 ∧
      extendedMatch oh s = copyAfterLength oh (streamField s 0 8 + 18) s1) ∨
    (8 ≤ available s ∧ available s < 24 ∧ streamField s 0 8 = 255 ∧ ∃ s1, LengthRead s s1 8 ∧
      extendedMatch oh s = jobEnd .bitsLen16 s1) ∨
    (24 ≤ available s ∧ streamField s 0 8 = 255 ∧ ∃ s1, LengthRead s s1 24 ∧
      extendedMatch oh s = copyAfterLength oh (streamField s 8 16 + 3) s1) := by
  rcases extendedLength_spec hclean with
    ⟨hstop, hshort⟩ | ⟨v8, s1, hlen, hlow, hbits, hread⟩ | ⟨s1, hstop, hread, hbits, hshort⟩ |
      ⟨v16, s1, s2, hlen, hread8, hbits, hread16⟩
  · exact .inl ⟨hshort, extendedMatch_of_stopped hstop⟩
  · have hv8 := hread.value
    exact .inr (.inl ⟨hbits, by omega, s1, lengthRead_of_field hread, by rw [extendedMatch_of_value hlen, hv8]⟩)
  · have havail := hread.advance.1
    exact .inr (.inr (.inl ⟨hbits, by omega, hread.value.symm, s1, lengthRead_of_field hread,
      extendedMatch_of_stopped hstop⟩))
  · have hv16 : v16.toNat = streamField s 8 16 := hread16.value.trans (streamField_of_advanced hread8.advance 0 16)
    exact .inr (.inr (.inr ⟨hbits, hread8.value.symm, s2,
      lengthRead_trans (lengthRead_of_field hread8) (lengthRead_of_field hread16),
      by rw [extendedMatch_of_value hlen, hv16]⟩))

theorem extendedMatch_len8 (oh : BitVec 3) {s : State} (hclean : accClean s) (hbits : 8 ≤ available s)
    (hlow : streamField s 0 8 < 255) :
    ∃ s1, LengthRead s s1 8 ∧ extendedMatch oh s = copyAfterLength oh (streamField s 0 8 + 18) s1 := by
  rcases extendedMatch_cases oh hclean with ⟨hshort, _⟩ | ⟨_, _, h⟩ | ⟨_, _, hesc, _⟩ | ⟨_, hesc, _⟩
  · exact absurd hbits (Nat.not_le.2 hshort)
  · exact h
  · exact absurd hesc hlow.ne
  · exact absurd hesc hlow.ne

theorem extendedMatch_len16 (oh : BitVec 3) {s : State} (hclean : accClean s) (hbits : 24 ≤ available s)
    (hesc : streamField s 0 8 = 255) :
    ∃ s1, LengthRead s s1 24 ∧ extendedMatch oh s = copyAfterLength oh (streamField s 8 16 + 3) s1 := by
  rcases extendedMatch_cases oh hclean with ⟨hshort, _⟩ | ⟨_, hlow, _⟩ | ⟨_, hshort, _⟩ | ⟨_, _, h⟩
  · omega
  · exact absurd hesc hlow.ne
  · omega
  · exact h

/-! ### What follows the length, by what the stream holds -/

section
variable {oh : BitVec 3} {s s1 : State} {n len : Nat}

theorem streamDistance_of_lengthRead (h : LengthRead s s1 n) :
    streamDistance oh s1 = 2 ^ oh.toNat + streamField s n oh.toNat := by
  rw [streamDistance, streamField_of_advanced h.advance, Nat.add_zero]

/-- With the OFFX bits there and the source in OUT, the copy completes. -/
theorem copyAfterLength_copies (h : LengthRead s s1 n) (hlen : len < 2 ^ 17) (hbits : n + oh.toNat ≤ available s)
    (hsrc : 2 ^ oh.toNat + streamField s n oh.toNat ≤ s.outPos.toNat) :
    copied s (copyAfterLength oh len s1) len (2 ^ oh.toNat + streamField s n oh.toNat) ∧
      advanced s (copyAfterLength oh len s1) (n + oh.toNat) ∧ accClean (copyAfterLength oh len s1) := by
  have havail := h.advance.1
  have hdist := streamDistance_of_lengthRead (oh := oh) h
  rcases copyAfterLength_spec oh hlen h.same h.clean with ⟨hshort, _⟩ | ⟨hbefore, _⟩ | ⟨_, hcopied, hadv, hclean⟩
  · omega
  · omega
  · rw [hdist] at hcopied
    exact ⟨hcopied, advanced_trans h.advance hadv, hclean⟩

/-- With OFFX bits missing, the job ends with BITS_OFFSET and MLEN written (43 R174). -/
theorem copyAfterLength_missing (h : LengthRead s s1 n) (hshort : available s < n + oh.toNat) :
    copyAfterLength oh len s1 = jobEnd .bitsOffset { s1 with mlen := BitVec.ofNat 17 len } := by
  have havail := h.advance.1
  rcases copyAfterLength_stopped_or_copyMatch oh len h.same h.clean with ⟨_, hstop⟩ | ⟨hbits, _⟩
  · exact hstop
  · omega

/-- With the source before OUT, the job ends with CORRUPT_BACKREF (43 R176). -/
theorem endsCorrupt_of_lengthRead {i : Instr} (hexec : exec i s = .next (copyAfterLength oh len s1)) (h : LengthRead s s1 n)
    (hlen : len < 2 ^ 17) : endsCorrupt i oh s n len := by
  intro hbits hbefore
  have havail := h.advance.1
  have hdist := streamDistance_of_lengthRead (oh := oh) h
  rcases copyAfterLength_spec oh hlen h.same h.clean with ⟨hshort, _⟩ | ⟨_, v, hstop, hadv, hsame⟩ | ⟨hsrc, _⟩
  · omega
  · rw [hdist] at hsame
    exact ⟨v, by rw [hexec, hstop], advanced_trans h.advance hadv, hsame⟩
  · omega

end

/-- Settles O14: LEN8 below 255 is the length, and the copy follows 8 bits on. -/
theorem extendedMatchCopiesByLen8 : Obligations.ExtendedMatchCopiesByLen8 := by
  intro i oh s hform hclean hbits hlow hsrc
  obtain ⟨s1, hread, hmatch⟩ := extendedMatch_len8 oh hclean (by omega) hlow
  rw [exec_of_extended hform, hmatch]
  exact ⟨_, rfl, copyAfterLength_copies hread (by omega) hbits hsrc⟩

/-- Settles O15: LEN8 of 255 calls for LEN16, and the copy follows 24 bits on. -/
theorem extendedMatchCopiesByLen16 : Obligations.ExtendedMatchCopiesByLen16 := by
  intro i oh s hform hclean hbits hesc hsrc
  have hlen := streamField_lt s 8 16
  obtain ⟨s1, hread, hmatch⟩ := extendedMatch_len16 oh hclean (by omega) hesc
  rw [exec_of_extended hform, hmatch]
  exact ⟨_, rfl, copyAfterLength_copies hread (by omega) hbits hsrc⟩

/-- Settles O17: the length fields are consumed, then OFFX is missing. -/
theorem missingOffsetBitsStop : Obligations.MissingOffsetBitsStop := by
  intro i form oh s hform hclean
  refine ⟨fun lenSlot hshort hbits => ?_, fun hext hlow hbits8 hbits => ?_, fun hext hesc hbits24 hbits => ?_⟩
  case refine_1 =>
    subst hshort
    rw [(exec_of_short hform s).1, shortMatch_eq, copyAfterLength_missing (lengthRead_refl hclean) (by omega)]
  case refine_2 =>
    subst hext
    obtain ⟨s1, hread, hmatch⟩ := extendedMatch_len8 oh hclean hbits8 hlow
    refine ⟨{ s1 with mlen := BitVec.ofNat 17 (streamField s 0 8 + 18) }, ?_, advanced_mlen hread.advance _,
      sameButCursor_mlen hread.same _⟩
    rw [exec_of_extended hform, hmatch, copyAfterLength_missing hread hbits]
  case refine_3 =>
    subst hext
    obtain ⟨s1, hread, hmatch⟩ := extendedMatch_len16 oh hclean hbits24 hesc
    refine ⟨{ s1 with mlen := BitVec.ofNat 17 (streamField s 8 16 + 3) }, ?_, advanced_mlen hread.advance _,
      sameButCursor_mlen hread.same _⟩
    rw [exec_of_extended hform, hmatch, copyAfterLength_missing hread hbits]

/-- Settles O18: the two stops among the four cases of the extended form. -/
theorem missingLengthBitsStop : Obligations.MissingLengthBitsStop := by
  intro i oh s hform hclean
  rw [exec_of_extended hform]
  rcases extendedMatch_cases oh hclean with
    ⟨hshort, hstop⟩ | ⟨hbits, hlow, _⟩ | ⟨hbits, _, _, s1, hread, hstop⟩ | ⟨hbits, _⟩
  · exact ⟨fun _ => by rw [hstop], fun hbits => by omega⟩
  · exact ⟨fun hshort => by omega, fun _ _ hesc => by omega⟩
  · exact ⟨fun hshort => by omega, fun _ _ _ => ⟨s1, by rw [hstop], hread.same, hread.advance⟩⟩
  · exact ⟨fun hshort => by omega, fun _ hshort => by omega⟩

/-- Settles O19: the copy's check comes after the length fields and OFFX, for each form. -/
theorem sourceBeforeOutStops : Obligations.SourceBeforeOutStops := by
  intro i form oh s hform hclean
  refine ⟨fun lenSlot hshort => ?_, fun hext hlow hbits => ?_, fun hext hesc hbits => ?_⟩
  case refine_1 =>
    subst hshort
    obtain ⟨hexec, hslot⟩ := exec_of_short hform s
    exact endsCorrupt_of_lengthRead hexec (lengthRead_refl hclean) (by omega)
  case refine_2 =>
    subst hext
    obtain ⟨s1, hread, hmatch⟩ := extendedMatch_len8 oh hclean (by omega) hlow
    exact endsCorrupt_of_lengthRead (by rw [exec_of_extended hform, hmatch]) hread (by omega) hbits
  case refine_3 =>
    subst hext
    have hlen := streamField_lt s 8 16
    obtain ⟨s1, hread, hmatch⟩ := extendedMatch_len16 oh hclean (by omega) hesc
    exact endsCorrupt_of_lengthRead (by rw [exec_of_extended hform, hmatch]) hread (by omega) hbits

/-! ### Encoded fields at the head of the stream (30 R74 to R77) -/

/-- Where the stream holds the low `n` bits of `v` from bit `j` on, the field there is `v`. -/
theorem streamField_of_bits {s : State} {j n v : Nat} (hv : v < 2 ^ n)
    (h : ∀ k, k < n → streamBit s (j + k) = v.testBit k) : streamField s j n = v := by
  have hbits : ((List.range n).map fun k => if streamBit s (j + k) then 2 ^ k else 0) =
      (List.range n).map fun k => if v.testBit k then 2 ^ k else 0 :=
    List.map_congr_left fun k hk => by rw [h k (List.mem_range.1 hk)]
  rw [streamField, hbits, sum_pow_of_testBit, Nat.mod_eq_of_lt hv]

/-- The stream from bit `j` on begins with the bits `l`. -/
def streamHolds (s : State) (j : Nat) (l : List Bool) : Prop := ∀ k (hk : k < l.length), streamBit s (j + k) = l[k]

theorem streamHolds_append {s : State} {j : Nat} {l r : List Bool} (h : streamHolds s j (l ++ r)) :
    streamHolds s j l ∧ streamHolds s (j + l.length) r := by
  refine ⟨fun k hk => ?_, fun k hk => ?_⟩
  · rw [h k (by rw [List.length_append]; omega), List.getElem_append_left hk]
  · rw [Nat.add_assoc, h (l.length + k) (by rw [List.length_append]; omega),
      List.getElem_append_right (Nat.le_add_right _ _)]
    simp

@[simp] theorem length_bitsOf (n v : Nat) : (bitsOf n v).length = n := by simp [bitsOf]

theorem streamField_of_streamHolds {s : State} {j n v : Nat} (hv : v < 2 ^ n) (h : streamHolds s j (bitsOf n v)) :
    streamField s j n = v :=
  streamField_of_bits hv fun k hk => by
    rw [h k (by rwa [length_bitsOf])]
    simp [bitsOf]

theorem fields_bits_short (oh : BitVec 3) (offx : BitVec 7) :
    Fields.bits oh ⟨none, none, offx⟩ = bitsOf oh.toNat offx.toNat := rfl

theorem fields_bits_len8 (oh : BitVec 3) (v8 : BitVec 8) (offx : BitVec 7) :
    Fields.bits oh ⟨some v8, none, offx⟩ = bitsOf 8 v8.toNat ++ bitsOf oh.toNat offx.toNat := by
  simp [Fields.bits]

theorem fields_bits_len16 (oh : BitVec 3) (v8 : BitVec 8) (v16 : BitVec 16) (offx : BitVec 7) :
    Fields.bits oh ⟨some v8, some v16, offx⟩ =
      bitsOf 8 v8.toNat ++ (bitsOf 16 v16.toNat ++ bitsOf oh.toNat offx.toNat) := by
  simp [Fields.bits]

/-- Settles O4: the fields of each form are what the stream's fields read as, and O13, O14 and O15 say what a MATCH does with
those. -/
theorem encodedFieldsDriveTheCopy : Obligations.EncodedFieldsDriveTheCopy := by
  rintro i form oh ⟨len8, len16, offx⟩ s hform hwf hclean hbits hstream hsrc
  obtain ⟨hoffx, hshape⟩ := (fields_wellFormed_iff _ _ _).1 hwf
  have hholds : streamHolds s 0 (Fields.bits oh ⟨len8, len16, offx⟩) := fun k hk => by rw [Nat.zero_add]; exact hstream k hk
  rcases hshape with ⟨slot, rfl, rfl, rfl⟩ | ⟨v8, rfl, rfl, rfl, hlow⟩ | ⟨v8, v16, rfl, rfl, rfl, hesc⟩
  · rw [fields_bits_short] at hbits hholds ⊢
    rw [length_bitsOf] at hbits ⊢
    have hdist := streamField_of_streamHolds hoffx hholds
    have hcopy := shortMatchCopies i slot oh s hform hclean hbits
    rw [hdist] at hcopy
    exact hcopy hsrc
  · rw [fields_bits_len8] at hbits hholds ⊢
    obtain ⟨hholds8, hholdsX⟩ := streamHolds_append hholds
    rw [List.length_append, length_bitsOf, length_bitsOf] at hbits ⊢
    have hlen := streamField_of_streamHolds v8.isLt hholds8
    have hdist := streamField_of_streamHolds hoffx hholdsX
    have hcopy := extendedMatchCopiesByLen8 i oh s hform hclean hbits
    rw [length_bitsOf, Nat.zero_add] at hdist
    rw [hlen, hdist] at hcopy
    exact hcopy hlow hsrc
  · rw [fields_bits_len16] at hbits hholds ⊢
    obtain ⟨hholds8, hholds'⟩ := streamHolds_append hholds
    obtain ⟨hholds16, hholdsX⟩ := streamHolds_append hholds'
    rw [List.length_append, List.length_append, length_bitsOf, length_bitsOf, length_bitsOf, ← Nat.add_assoc] at hbits ⊢
    have hlen8 := streamField_of_streamHolds v8.isLt hholds8
    have hlen16 := streamField_of_streamHolds v16.isLt hholds16
    have hdist := streamField_of_streamHolds hoffx hholdsX
    rw [length_bitsOf, Nat.zero_add] at hlen16 hdist
    rw [length_bitsOf] at hdist
    have hcopy := extendedMatchCopiesByLen16 i oh s hform hclean hbits
    rw [hlen8, hlen16, hdist] at hcopy
    exact hcopy hesc hsrc

end Sys2Proof.Proofs

/-! PROOF. What a back-reference can do, whatever the state it runs in (43_back_reference.md): it stops, or it copies. What is said of
the stream's cursor alone rests on the accumulator's invariant (10 R29). -/

namespace Sys2Proof.Proofs
open Sys2Proof.Machine Sys2Proof.Laws

/-! ### The stream's cursor -/

/-- The cursor went from `s` to `t`: with a clean accumulator, `IN_POS` moves forward only and not past `IN_LEN` (41 R126). -/
structure CursorForward (s t : State) : Prop where
  inLen : t.inLen = s.inLen
  clean : accClean s → accClean t
  ahead : accClean s → s.inPos.toNat ≤ t.inPos.toNat
  inside : accClean s → t.inPos.toNat ≤ max s.inPos.toNat s.inLen.toNat

theorem cursorForward_refl (s : State) : CursorForward s s := ⟨rfl, id, fun _ => le_rfl, fun _ => le_max_left _ _⟩

theorem cursorForward_trans {s t u : State} (h : CursorForward s t) (h' : CursorForward t u) : CursorForward s u where
  inLen := h'.inLen.trans h.inLen
  clean hs := h'.clean (h.clean hs)
  ahead hs := (h.ahead hs).trans (h'.ahead (h.clean hs))
  inside hs := by
    have h1 := h.inside hs
    have h2 := h'.inside (h.clean hs)
    rw [h.inLen] at h2
    omega

/-- The cursor is `ACC`, `CNT` and `IN_POS`: another state with the same ones stands for `t`. -/
theorem cursorForward_congr {s t u : State} (h : CursorForward s t) (hacc : u.acc = t.acc) (hcnt : u.cnt = t.cnt)
    (hinPos : u.inPos = t.inPos) (hinLen : u.inLen = t.inLen) : CursorForward s u where
  inLen := hinLen.trans h.inLen
  clean hs := by rw [accClean, hacc, hcnt]; exact h.clean hs
  ahead hs := by rw [hinPos]; exact h.ahead hs
  inside hs := by rw [hinPos]; exact h.inside hs

theorem cursorForward_fill {n : Nat} (hn : n ≤ 16) {s t : State} (h : fill n s = some t) : CursorForward s t where
  inLen := by rw [sameButCursor_fill h]
  clean hs := (filled_of_fill hs hn h).clean
  ahead hs := (filled_of_fill hs hn h).ahead
  inside hs := (filled_of_fill hs hn h).inside

theorem cursorForward_consume {n : Nat} {s : State} (h : accClean s → n ≤ s.cnt.toNat) : CursorForward s (consume n s) :=
  ⟨rfl, fun hs => accClean_consume hs (h hs), fun _ => le_rfl, fun _ => le_max_left _ _⟩

/-- A field read moves the cursor alone, or stops in the state it began in; whatever the accumulator holds. -/
theorem readField_cases {n : Nat} (hn : n ≤ 16) (r : StopReason) (s : State) :
    readField n r s = .stopped r s ∨
      ∃ (v : BitVec n) (t : State), readField n r s = .value v t ∧ sameButCursor s t ∧ CursorForward s t := by
  cases hfill : fill n s with
  | none => exact .inl (readField_of_fill_eq_none hfill r)
  | some t =>
    refine .inr ⟨peek n t, consume n t, by rw [readField, hfill],
      sameButCursor_trans (sameButCursor_fill hfill) (sameButCursor_consume n t), ?_⟩
    have hleast (hs : accClean s) : CursorForward t (consume n t) :=
      cursorForward_consume fun _ => (filled_of_fill hs hn hfill).least
    have hforward := cursorForward_fill hn hfill
    exact ⟨hforward.inLen, fun hs => (cursorForward_trans hforward (hleast hs)).clean hs, hforward.ahead, hforward.inside⟩

/-! ### Reading a back-reference's operands (43 R171 to R175) -/

/-- Nothing but the operand registers and the cursor differs. -/
def sameButOperands (s v : State) : Prop :=
  v = { s with acc := v.acc, cnt := v.cnt, inPos := v.inPos, mlen := v.mlen, offset := v.offset }

theorem offsetOperand_cases (oh : BitVec 3) (s : State) :
    offsetOperand oh s = .stopped .bitsOffset s ∨
      ∃ (off : Nat) (t : State), offsetOperand oh s = .value off t ∧ sameButCursor s t ∧ CursorForward s t := by
  have hoh := oh.isLt
  by_cases h : oh = 0
  · exact .inr ⟨0, s, by rw [offsetOperand, if_pos h], sameButCursor_refl s, cursorForward_refl s⟩
  · rw [offsetOperand, if_neg h]
    rcases readField_cases (n := oh.toNat) (by omega) .bitsOffset s with hr | ⟨v, t, hr, hsame, hforward⟩
    · exact .inl (by rw [hr])
    · exact .inr ⟨_, t, by rw [hr], hsame, hforward⟩

theorem extendedLength_cases (s : State) :
    ∃ t, sameButCursor s t ∧ CursorForward s t ∧
      (extendedLength s = .stopped .bitsLen8 t ∨ extendedLength s = .stopped .bitsLen16 t ∨
        ∃ len, 3 ≤ len ∧ len ≤ 65538 ∧ extendedLength s = .value len t) := by
  rw [extendedLength]
  rcases readField_cases (n := 8) (by omega) .bitsLen8 s with hr | ⟨v8, t, hr, hsame, hforward⟩
  · exact ⟨s, sameButCursor_refl s, cursorForward_refl s, .inl (by rw [hr])⟩
  · rw [hr]
    by_cases hlow : v8.toNat < Config.ext8Esc
    · have hmax : v8.toNat < 255 := hlow
      exact ⟨t, hsame, hforward, .inr (.inr ⟨v8.toNat + 18, by omega, by omega, if_pos hlow⟩)⟩
    · dsimp only
      rw [if_neg hlow]
      rcases readField_cases (n := 16) (by omega) .bitsLen16 t with hr16 | ⟨v16, u, hr16, hsame16, hforward16⟩
      · exact ⟨t, hsame, hforward, .inr (.inl (by rw [hr16]))⟩
      · have hmax := v16.isLt
        exact ⟨u, sameButCursor_trans hsame hsame16, cursorForward_trans hforward hforward16,
          .inr (.inr ⟨v16.toNat + 3, by omega, by omega, by rw [hr16]⟩)⟩

/-! ### A back-reference stops or copies -/

/-- The stops of a back-reference (43 R172 to R176). -/
def matchStop (r : StopReason) : Prop := r = .bitsLen8 ∨ r = .bitsLen16 ∨ r = .bitsOffset ∨ r = .corruptBackref

theorem result_of_matchStop {r : StopReason} (h : matchStop r) : r.result = .truncated := by
  rcases h with rfl | rfl | rfl | rfl <;> rfl

/-- The back-reference from `s` answers `t`: it ends the job, or copies with its source in OUT, from a state `v` with its operands
read. -/
def StopsOrCopies (s t : State) : Prop :=
  ∃ v, sameButOperands s v ∧ CursorForward s v ∧
    ((∃ r, matchStop r ∧ t = jobEnd r v) ∨ (v.offset.toNat + 1 ≤ v.outPos.toNat ∧ 3 ≤ v.mlen.toNat ∧ t = copyMatch v))

theorem copyAfterLength_stopsOrCopies (oh : BitVec 3) {s s1 : State} {len : Nat} (hmin : 3 ≤ len) (hmax : len ≤ 65538)
    (hsame : sameButCursor s s1) (hforward : CursorForward s s1) : StopsOrCopies s (copyAfterLength oh len s1) := by
  have hmarked : CursorForward s { s1 with mlen := BitVec.ofNat 17 len } := cursorForward_congr hforward rfl rfl rfl rfl
  rcases offsetOperand_cases oh { s1 with mlen := BitVec.ofNat 17 len } with hstop | ⟨off, t, hvalue, hsame', hforward'⟩
  · refine ⟨{ s1 with mlen := BitVec.ofNat 17 len }, ?_, hmarked, .inl ⟨.bitsOffset, .inr (.inr (.inl rfl)), ?_⟩⟩
    · rw [sameButOperands, hsame]
    · rw [copyAfterLength, offsetAndCopy, hstop]
  · have hlen : (BitVec.ofNat 17 len).toNat = len := by rw [BitVec.toNat_ofNat]; omega
    have hmlen : t.mlen = BitVec.ofNat 17 len := by rw [hsame']
    refine ⟨{ t with offset := BitVec.ofNat 8 off }, ?_,
      cursorForward_congr (cursorForward_trans hmarked hforward') rfl rfl rfl rfl, ?_⟩
    · rw [sameButOperands, hsame', hsame]
    · rw [copyAfterLength, offsetAndCopy, hvalue]
      by_cases hsrc : t.outPos.toNat < (BitVec.ofNat 8 off).toNat + 1
      · exact .inl ⟨.corruptBackref, .inr (.inr (.inr rfl)), copyMatch_of_before hsrc⟩
      · exact .inr ⟨Nat.le_of_not_lt hsrc, by rw [hmlen, hlen]; exact hmin, rfl⟩

theorem extendedMatch_stopsOrCopies (oh : BitVec 3) (s : State) : StopsOrCopies s (extendedMatch oh s) := by
  obtain ⟨t, hsame, hforward, hstop8 | hstop16 | ⟨len, hmin, hmax, hvalue⟩⟩ := extendedLength_cases s
  · exact ⟨t, by rw [sameButOperands, hsame], hforward, .inl ⟨_, .inl rfl, extendedMatch_of_stopped hstop8⟩⟩
  · exact ⟨t, by rw [sameButOperands, hsame], hforward, .inl ⟨_, .inr (.inl rfl), extendedMatch_of_stopped hstop16⟩⟩
  · rw [extendedMatch_of_value hvalue]
    exact copyAfterLength_stopsOrCopies oh hmin hmax hsame hforward

/-- Every back-reference answers a next state, whatever the state it runs in. -/
theorem exec_match {i : Instr} {form : LengthForm} {oh : BitVec 3} (hform : i.matchForm = some (form, oh)) (s : State) :
    ∃ t, exec i s = .next t ∧ StopsOrCopies s t := by
  cases form with
  | short lenSlot =>
    obtain ⟨hexec, hslot⟩ := exec_of_short hform s
    rw [shortMatch_eq] at hexec
    exact ⟨_, hexec, copyAfterLength_stopsOrCopies oh (by omega) (by omega) (sameButCursor_refl s) (cursorForward_refl s)⟩
  | extended => exact ⟨_, exec_of_extended hform s, extendedMatch_stopsOrCopies oh s⟩

/-! ### Output (42 R155, 43 R177, R178) -/

/-- `t` is `v` with output written from `OUT_POS` on: left to right and not past `OUT_LEN` (20 R64). -/
structure Emits (v t : State) : Prop where
  same : t = { v with ncopy := t.ncopy, outMem := t.outMem, outPos := t.outPos }
  ahead : v.outPos.toNat ≤ t.outPos.toNat
  room : v.outPos.toNat < v.outLen.toNat → v.outPos.toNat < t.outPos.toNat ∧ t.outPos.toNat ≤ v.outLen.toNat
  kept : ∀ a, ¬(v.outPos.toNat ≤ a ∧ a < t.outPos.toNat) → t.outMem.read a = v.outMem.read a
  wf : v.outMem.wf → t.outMem.wf

section
variable {v t : State}

theorem Emits.inPos (h : Emits v t) : t.inPos = v.inPos := by rw [h.same]
theorem Emits.inLen (h : Emits v t) : t.inLen = v.inLen := by rw [h.same]
theorem Emits.outLen (h : Emits v t) : t.outLen = v.outLen := by rw [h.same]
theorem Emits.inMem (h : Emits v t) : t.inMem = v.inMem := by rw [h.same]
theorem Emits.placement (h : Emits v t) : t.placement = v.placement := by rw [h.same]
theorem Emits.phase (h : Emits v t) : t.phase = v.phase := by rw [h.same]
theorem Emits.spoiled (h : Emits v t) : t.spoiled = v.spoiled := by rw [h.same]
theorem Emits.point (h : Emits v t) : t.point = v.point := by rw [h.same]
theorem Emits.host (h : Emits v t) : t.host = v.host := by rw [h.same]

end

/-- The copy's count never takes `OUT_POS` past `OUT_LEN`, and is 0 where it is already there. -/
theorem outPos_add_copyCount (v : State) (len : Nat) :
    (v.outPos + BitVec.ofNat 32 (copyCount v len)).toNat = v.outPos.toNat + copyCount v len := by
  have hcap : copyCount v len ≤ v.outLen.toNat - v.outPos.toNat := Nat.min_le_right _ _
  rcases Nat.lt_or_ge v.outPos.toNat v.outLen.toNat with hroom | hfull
  · exact toNat_add_ofNat_of_le (len := v.outLen) (by omega)
  · exact toNat_add_ofNat_of_le (len := v.outPos) (by omega)

theorem emits_copyMatch {v : State} (hsrc : v.offset.toNat + 1 ≤ v.outPos.toNat) (hmin : 3 ≤ v.mlen.toNat) :
    Emits v (copyMatch v) := by
  have hcap : copyCount v v.mlen.toNat = min v.mlen.toNat (v.outLen.toNat - v.outPos.toNat) := rfl
  rcases copyMatch_spec v with ⟨hbefore, _⟩ | ⟨_, hcopy, hread, hwf⟩
  · omega
  · have hpos : (copyMatch v).outPos.toNat = v.outPos.toNat + copyCount v v.mlen.toNat := by
      rw [hcopy]; exact outPos_add_copyCount v _
    refine ⟨by rw [hcopy], by omega, fun hroom => by omega, fun a ha => ?_, hwf⟩
    rw [hread, copiedByte, if_neg (by omega)]

theorem emits_emitByte (b : BitVec 8) {v : State} (hroom : v.outPos.toNat < v.outLen.toNat) : Emits v (emitByte b v) := by
  have hpos := emitByte_outPos_toNat b hroom
  refine ⟨rfl, by omega, fun _ => by omega, fun a ha => ?_, fun hwf => wf_write hwf _ _⟩
  rw [emitByte_read, if_neg (by omega)]

/-- Settles O20: a completed copy leaves PHASE as it was, so a MATCH that ended the job stopped before its copy. -/
theorem stoppedMatchWritesNoByte : Obligations.StoppedMatchWritesNoByte := by
  intro i form oh s t hform _ hbusy hexec hdone
  obtain ⟨t', hexec', v, hsame, _, hcases⟩ := exec_match hform s
  obtain rfl : t' = t := Host.Outcome.next.inj (hexec'.symm.trans hexec)
  have hphase : v.phase = s.phase := by rw [hsame]
  rcases hcases with ⟨r, hr, rfl⟩ | ⟨hsrc, hmin, rfl⟩
  · have hout : v.outMem = s.outMem ∧ v.outPos = s.outPos := by rw [hsame]; exact ⟨rfl, rfl⟩
    exact ⟨hout.1, hout.2, hout.2, result_of_matchStop hr, hr⟩
  · have hcopy : (copyMatch v).phase = v.phase := by rw [(emits_copyMatch hsrc hmin).same]
    rw [hcopy, hphase, hbusy] at hdone
    exact absurd hdone (by decide)

/-- Settles O21: a stop writes the results and no byte, a copy `OUT_POS`, NCOPY and the bytes it passes. -/
theorem matchFrame : Obligations.MatchFrame := by
  intro i form oh s hform
  obtain ⟨t, hexec, v, hsame, _, hcases⟩ := exec_match hform s
  refine ⟨t, hexec, ?_⟩
  have hout : v.outMem = s.outMem ∧ v.outPos = s.outPos := by rw [hsame]; exact ⟨rfl, rfl⟩
  rcases hcases with ⟨r, hr, rfl⟩ | ⟨hsrc, hmin, rfl⟩
  · refine ⟨by rw [hsame]; rfl, by rw [jobEnd_outPos, hout.2], fun a _ => by rw [jobEnd_outMem, hout.1]⟩
  · have hemits := emits_copyMatch hsrc hmin
    rw [← hout.1, ← hout.2]
    exact ⟨by rw [hemits.same, hsame], hemits.ahead, hemits.kept⟩

end Sys2Proof.Proofs

/-! PROOF. The operations of a running job (42 R143 to R156), said once as `JobStep`: what the chunk pass and the symbol loop can
do. The statements about a job's end, its output and its input read this one case list. -/

namespace Sys2Proof.Proofs
open Sys2Proof.Machine Sys2Proof.Laws

/-! ### FILL brings the bits, whatever the accumulator -/

theorem pullBytes_cnt_toNat {k : Nat} {s : State} (h : s.cnt.toNat + 8 * k < 128) :
    (pullBytes k s).cnt.toNat = s.cnt.toNat + 8 * k := by
  induction k generalizing s with
  | zero => rfl
  | succ k ih =>
    have hpull : (pullByte s).cnt.toNat = s.cnt.toNat + 8 := by
      rw [pullByte_cnt, BitVec.toNat_add]
      exact Nat.mod_eq_of_lt (show s.cnt.toNat + 8 < 2 ^ 7 by omega)
    rw [pullBytes, ih (by omega), hpull]
    omega

theorem le_cnt_of_fill {n : Nat} (hn : n ≤ 16) {s t : State} (h : fill n s = some t) : n ≤ t.cnt.toNat := by
  by_cases henough : n ≤ s.cnt.toNat
  · rwa [← Option.some.inj ((fill_of_enough henough).symm.trans h)]
  · rw [fill, if_neg henough] at h
    dsimp only at h
    split at h
    · exact absurd h (by simp)
    · rw [← Option.some.inj h, pullBytes_cnt_toNat (by omega)]
      omega

/-! ### Instructions of the stream -/

/-- An instruction is START, UNASSIGNED, a literal or a back-reference. -/
theorem instr_kinds (i : Instr) :
    i = .start ∨ i = .unassigned ∨ (∃ b, i = .lit b) ∨ ∃ form oh, i.matchForm = some (form, oh) := by
  cases i with
  | start => exact .inl rfl
  | unassigned => exact .inr (.inl rfl)
  | lit b => exact .inr (.inr (.inl ⟨b, rfl⟩))
  | _ => exact .inr (.inr (.inr ⟨_, _, rfl⟩))

/-- No entry of TAB stands for START. -/
theorem decodeEntry_ne_start (e : BitVec 16) : decodeEntry e ≠ .start := by
  intro h
  rw [decodeEntry] at h
  split at h
  · exact absurd h (by decide)
  · have hsym := (decodeSymbol_wellFormed_symbol (entrySym e)).2
    rw [h] at hsym
    exact absurd hsym (by simp [Instr.symbol])

theorem decodeEntry_wellFormed (e : BitVec 16) : (decodeEntry e).wellFormed = true := by
  rw [decodeEntry]
  split
  · rfl
  · exact (decodeSymbol_wellFormed_symbol (entrySym e)).1

/-- What a symbol decode writes before it emits: SYM, CLEN, FALLBACK, the operand registers and the cursor. -/
structure SymbolRead (s v : State) : Prop where
  same : v = { s with
    acc := v.acc, cnt := v.cnt, inPos := v.inPos, sym := v.sym, clen := v.clen, mlen := v.mlen, offset := v.offset
    fallback := v.fallback }
  forward : CursorForward s v

section
variable {s v : State}

theorem SymbolRead.outPos (h : SymbolRead s v) : v.outPos = s.outPos := by rw [h.same]
theorem SymbolRead.outLen (h : SymbolRead s v) : v.outLen = s.outLen := by rw [h.same]
theorem SymbolRead.outMem (h : SymbolRead s v) : v.outMem = s.outMem := by rw [h.same]
theorem SymbolRead.inLen (h : SymbolRead s v) : v.inLen = s.inLen := by rw [h.same]
theorem SymbolRead.inMem (h : SymbolRead s v) : v.inMem = s.inMem := by rw [h.same]
theorem SymbolRead.placement (h : SymbolRead s v) : v.placement = s.placement := by rw [h.same]
theorem SymbolRead.phase (h : SymbolRead s v) : v.phase = s.phase := by rw [h.same]
theorem SymbolRead.spoiled (h : SymbolRead s v) : v.spoiled = s.spoiled := by rw [h.same]
theorem SymbolRead.point (h : SymbolRead s v) : v.point = s.point := by rw [h.same]
theorem SymbolRead.host (h : SymbolRead s v) : v.host = s.host := by rw [h.same]

end

theorem symbolRead_refl (s : State) : SymbolRead s s := ⟨rfl, cursorForward_refl s⟩

theorem symbolRead_trans {s v w : State} (h : SymbolRead s v) (h' : SymbolRead v w) : SymbolRead s w :=
  ⟨by rw [h'.same, h.same], cursorForward_trans h.forward h'.forward⟩

theorem symbolRead_of_operands {s v : State} (hsame : sameButOperands s v) (hforward : CursorForward s v) : SymbolRead s v :=
  ⟨by rw [hsame], hforward⟩

theorem symbolRead_of_cursor {s v : State} (hsame : sameButCursor s v) (hforward : CursorForward s v) : SymbolRead s v :=
  ⟨by rw [hsame], hforward⟩

theorem symbolRead_lookUp (s : State) : SymbolRead s (lookUp s) :=
  ⟨rfl, cursorForward_congr (cursorForward_refl s) rfl rfl rfl rfl⟩

theorem symbolRead_markUnassigned (s : State) : SymbolRead s (markUnassigned s) :=
  ⟨rfl, cursorForward_congr (cursorForward_refl s) rfl rfl rfl rfl⟩

theorem symbolRead_consume {n : Nat} {s : State} (h : accClean s → n ≤ s.cnt.toNat) : SymbolRead s (consume n s) :=
  symbolRead_of_cursor (sameButCursor_consume n s) (cursorForward_consume h)

/-- A symbol's outcome from `s`: the job stops, output is emitted, or OUT has no byte at `OUT_POS`. -/
inductive SymbolOutcome (s : State) : Host.Outcome State Fault Refusal → Prop
  | stopped {v : State} {r : StopReason} (hr : r.result = .truncated) (hread : SymbolRead s v) :
      SymbolOutcome s (.next (jobEnd r v))
  | emitted {v t : State} (hread : SymbolRead s v) (hemits : Emits v t) : SymbolOutcome s (.next t)
  | outOfRange (hfull : s.outLen.toNat ≤ s.outPos.toNat) : SymbolOutcome s (.fault .outOfRange)

theorem literalStep_of_full (b : BitVec 8) {s : State} (h : s.outLen.toNat ≤ s.outPos.toNat) :
    literalStep b s = .fault .outOfRange := by
  rw [literalStep, if_neg (Nat.not_lt.2 h)]

theorem symbolOutcome_literalStep (b : BitVec 8) {s v : State} (hread : SymbolRead s v) :
    SymbolOutcome s (literalStep b v) := by
  rcases Nat.lt_or_ge v.outPos.toNat v.outLen.toNat with hroom | hfull
  · rw [literalStep_of_room b hroom]
    exact .emitted hread (emits_emitByte b hroom)
  · rw [literalStep_of_full b hfull]
    rw [hread.same] at hfull
    exact .outOfRange hfull

/-- What an instruction of the stream can do. UNASSIGNED needs its 15 bits in the accumulator (42 R150). -/
theorem symbolOutcome_exec {i : Instr} {s : State} (hi : i ≠ .start) (hcnt : i = .unassigned → 15 ≤ s.cnt.toNat) :
    SymbolOutcome s (exec i s) := by
  rcases instr_kinds i with rfl | rfl | ⟨b, rfl⟩ | ⟨form, oh, hform⟩
  · exact absurd rfl hi
  · rw [exec_unassigned]
    exact symbolOutcome_literalStep 0
      (symbolRead_trans (symbolRead_markUnassigned s) (symbolRead_consume fun _ => hcnt rfl))
  · rw [exec_lit]
    exact symbolOutcome_literalStep b (symbolRead_refl s)
  · obtain ⟨t, hexec, v, hsame, hforward, ⟨r, hr, rfl⟩ | ⟨hsrc, hmin, rfl⟩⟩ := exec_match hform s
    · rw [hexec]
      exact .stopped (result_of_matchStop hr) (symbolRead_of_operands hsame hforward)
    · rw [hexec]
      exact .emitted (symbolRead_of_operands hsame hforward) (emits_copyMatch hsrc hmin)

theorem symbolOutcome_of_read {s v : State} (hread : SymbolRead s v) {o : Host.Outcome State Fault Refusal}
    (h : SymbolOutcome v o) : SymbolOutcome s o := by
  cases h with
  | stopped hr hread' => exact .stopped hr (symbolRead_trans hread hread')
  | emitted hread' hemits => exact .emitted (symbolRead_trans hread hread') hemits
  | outOfRange hfull =>
    rw [hread.same] at hfull
    exact .outOfRange hfull

/-! ### The steps of the core -/

theorem chunkPass_full {s : State} (hout : s.outLen.toNat ≤ s.outPos.toNat) : chunkPass s = jobEnd .none s := by
  rw [chunkPass, if_pos hout]

theorem step_of_coreFetch_settled {s t : State} (hturn : coreTurn s) (h : coreFetch (afterTurn s) = .settled t) :
    step s = .next t := by
  rw [step, fetch_of_coreTurn hturn, h]

theorem step_of_coreFetch_instr {s s1 : State} {i : Instr} (hturn : coreTurn s)
    (h : coreFetch (afterTurn s) = .instr i s1) : step s = exec i s1 := by
  rw [step, fetch_of_coreTurn hturn, h]

theorem step_chunkEnd {s : State} (hturn : coreTurn s) (hruns : jobRuns s) (hpoint : s.point = .symbolLoop)
    (hbound : s.chunkBound.toNat ≤ s.outPos.toNat - s.chunkStart.toNat) :
    step s = .next { afterTurn s with point := .chunkPass } :=
  step_of_coreFetch_settled hturn
    ((coreFetch_symbolLoop (jobRuns_afterTurn hruns) hpoint).trans (symbolPass_end (s := afterTurn s) hbound))

/-- With a window, the step runs the entry's instruction (42 R151 to R154). -/
theorem step_window {s s1 : State} (hturn : coreTurn s) (hruns : jobRuns s) (hpoint : s.point = .symbolLoop)
    (hbound : s.outPos.toNat - s.chunkStart.toNat < s.chunkBound.toNat) (hfill : fill 15 (afterTurn s) = some s1) :
    (decodeEntry (tabRead s1 (peek 15 s1).toNat) = .unassigned → step s = exec .unassigned (lookUp s1)) ∧
    (decodeEntry (tabRead s1 (peek 15 s1).toNat) ≠ .unassigned →
      step s = exec (decodeEntry (tabRead s1 (peek 15 s1).toNat)) (consume (lookUp s1).clen.toNat (lookUp s1))) := by
  have hfetch : coreFetch (afterTurn s) = decodeWindow s1 :=
    (coreFetch_symbolLoop (jobRuns_afterTurn hruns) hpoint).trans (symbolPass_window (s := afterTurn s) hbound hfill)
  refine ⟨fun h => ?_, fun h => ?_⟩
  · exact step_of_coreFetch_instr hturn (hfetch.trans (decodeWindow_unassigned h))
  · exact step_of_coreFetch_instr hturn (hfetch.trans (decodeWindow_of_ne h))

/-- The symbol decode of the loop (42 R149 to R156). -/
theorem symbolOutcome_step {s : State} (hturn : coreTurn s) (hruns : jobRuns s) (hpoint : s.point = .symbolLoop)
    (hbound : s.outPos.toNat - s.chunkStart.toNat < s.chunkBound.toNat) : SymbolOutcome (afterTurn s) (step s) := by
  cases hfill : fill 15 (afterTurn s) with
  | none =>
    rw [step_symbolLoop_of_short hturn hruns hpoint hbound hfill]
    exact .stopped rfl (symbolRead_refl _)
  | some s1 =>
    have hcnt : 15 ≤ (lookUp s1).cnt.toNat := by
      rw [lookUp_cnt]; exact le_cnt_of_fill (by decide) hfill
    have hread : SymbolRead (afterTurn s) (lookUp s1) := symbolRead_trans
      (symbolRead_of_cursor (sameButCursor_fill hfill) (cursorForward_fill (by decide) hfill)) (symbolRead_lookUp s1)
    obtain ⟨hunassigned, hother⟩ := step_window hturn hruns hpoint hbound hfill
    by_cases h : decodeEntry (tabRead s1 (peek 15 s1).toNat) = .unassigned
    · rw [hunassigned h]
      exact symbolOutcome_of_read hread (symbolOutcome_exec (by decide) fun _ => hcnt)
    · have hclen := (lookUp s1).clen.isLt
      rw [hother h]
      exact symbolOutcome_of_read (symbolRead_trans hread (symbolRead_consume fun _ => by omega))
        (symbolOutcome_exec (decodeEntry_ne_start _) fun h' => absurd h' h)

/-- What an operation of a running job can do, read against the state that has taken the core's turn. -/
inductive JobStep (s : State) : State → Prop
  /-- 42 R143. -/
  | complete (hpoint : s.point = .chunkPass) (hout : s.outLen.toNat ≤ s.outPos.toNat) : JobStep s (jobEnd .none s)
  /-- 42 R144. -/
  | headerShort (hpoint : s.point = .chunkPass) (hout : s.outPos.toNat < s.outLen.toNat)
      (hin : s.inLen.toNat - s.inPos.toNat < 256) : JobStep s (jobEnd .headerShort s)
  /-- 42 R145 to R148. -/
  | opened (hpoint : s.point = .chunkPass) (hout : s.outPos.toNat < s.outLen.toNat)
      (hin : 256 ≤ s.inLen.toNat - s.inPos.toNat) : JobStep s (chunkOpened s)
  /-- 42 R149. -/
  | chunkEnd (hpoint : s.point = .symbolLoop) (hbound : s.chunkBound.toNat ≤ s.outPos.toNat - s.chunkStart.toNat) :
      JobStep s { s with point := .chunkPass }
  /-- 42 R150, 43 R172 to R176: a symbol stops the job. -/
  | stopped {v : State} {r : StopReason} (hpoint : s.point = .symbolLoop)
      (hbound : s.outPos.toNat - s.chunkStart.toNat < s.chunkBound.toNat) (hr : r.result = .truncated)
      (hread : SymbolRead s v) : JobStep s (jobEnd r v)
  /-- 42 R155, R156, 43 R177, R178: a symbol emits output. -/
  | emitted {v t : State} (hpoint : s.point = .symbolLoop)
      (hbound : s.outPos.toNat - s.chunkStart.toNat < s.chunkBound.toNat) (hread : SymbolRead s v) (hemits : Emits v t) :
      JobStep s t

/-- An operation of a running job is a `JobStep`, or a literal where OUT has no byte at `OUT_POS`. -/
theorem step_of_job {s : State} (hturn : coreTurn s) (hruns : jobRuns s) :
    (∃ t, step s = .next t ∧ JobStep (afterTurn s) t) ∨
      (step s = .fault .outOfRange ∧ s.point = .symbolLoop ∧
        s.outPos.toNat - s.chunkStart.toNat < s.chunkBound.toNat ∧ s.outLen.toNat ≤ s.outPos.toNat) := by
  cases hpoint : s.point with
  | chunkPass =>
    refine .inl ⟨_, step_chunkPass hturn hruns hpoint, ?_⟩
    have hpoint' : (afterTurn s).point = .chunkPass := hpoint
    rcases Nat.lt_or_ge (afterTurn s).outPos.toNat (afterTurn s).outLen.toNat with hout | hout
    · rcases Nat.lt_or_ge ((afterTurn s).inLen.toNat - (afterTurn s).inPos.toNat) 256 with hin | hin
      · rw [chunkPass_short hout hin]
        exact .headerShort hpoint' hout hin
      · rw [chunkPass_open hout hin]
        exact .opened hpoint' hout hin
    · rw [chunkPass_full hout]
      exact .complete hpoint' hout
  | symbolLoop =>
    have hpoint' : (afterTurn s).point = .symbolLoop := hpoint
    rcases Nat.lt_or_ge (s.outPos.toNat - s.chunkStart.toNat) s.chunkBound.toNat with hbound | hbound
    · have houtcome := symbolOutcome_step hturn hruns hpoint hbound
      generalize step s = o at houtcome
      cases houtcome with
      | stopped hr hread => exact .inl ⟨_, rfl, .stopped hpoint' hbound hr hread⟩
      | emitted hread hemits => exact .inl ⟨_, rfl, .emitted hpoint' hbound hread hemits⟩
      | outOfRange hfull => exact .inr ⟨rfl, rfl, hbound, hfull⟩
    · exact .inl ⟨_, step_chunkEnd hturn hruns hpoint hbound, .chunkEnd hpoint' hbound⟩

theorem jobStep_of_step {s t : State} (hturn : coreTurn s) (hruns : jobRuns s) (h : step s = .next t) :
    JobStep (afterTurn s) t := by
  rcases step_of_job hturn hruns with ⟨t', hnext, hjob⟩ | ⟨hfault, _⟩
  · rwa [← Host.Outcome.next.inj (hnext.symm.trans h)]
  · exact absurd (hfault.symm.trans h) (by simp)

/-! ### The obligations on single steps -/

/-- Settles O3: the window is the next 15 stream bits, and the code's bits are the first of them. -/
theorem encodedSymbolRunsFromTheStream : Obligations.EncodedSymbolRunsFromTheStream := by
  intro i σ len s hwf hsym hlen hturn hruns hpoint hbound hclean hbits htab
  have hclean' : accClean (afterTurn s) := hclean
  rcases fill_spec (n := 15) hclean' (by decide) with ⟨_, hshort⟩ | ⟨s1, hfill, hfilled⟩
  · exact absurd hbits (Nat.not_le.2 hshort)
  · have hentry : tabRead s1 (peek 15 s1).toNat = tableEntry len σ := by
      have htab1 : s1.tab = s.tab := by rw [hfilled.same]; rfl
      rw [tabRead, htab1, peek_toNat hfilled.least, streamField_congr hfilled.stream]
      exact htab
    have hdecode : decodeEntry (tableEntry len σ) = i := by rw [decodeEntry_tableEntry hlen, decodeSymbol_of_symbol hwf hsym]
    have hne : i ≠ .unassigned := fun h => by rw [h] at hsym; exact absurd hsym (by simp [Instr.symbol])
    have hstep := (step_window hturn hruns hpoint hbound hfill).2
    rw [lookUp_clen, hentry, hdecode, entryLen_tableEntry] at hstep
    have hcnt : len.toNat ≤ (lookUp s1).cnt.toNat := by
      have hmax := len.isLt
      have hleast := hfilled.least
      rw [lookUp_cnt]
      omega
    have hlookUp : advanced s (lookUp s1) 0 := ⟨hfilled.avail, fun j => by rw [Nat.zero_add]; exact hfilled.stream j⟩
    have hadv := advanced_trans hlookUp (advanced_consume hcnt)
    rw [Nat.zero_add] at hadv
    refine ⟨consume len.toNat (lookUp s1), hstep hne, ?_, hadv, accClean_consume hfilled.clean hcnt⟩
    have hframe : lookUp s1 = { s1 with sym := σ, clen := len } := by
      rw [lookUp, hentry, entryLen_tableEntry, entrySym_tableEntry]
    rw [hframe, hfilled.same]
    rfl

/-- Settles O7: `step_window`, and an entry stands for an operation that is well formed. -/
theorem stepRunsTheDecodedSymbol : Obligations.StepRunsTheDecodedSymbol := by
  rintro s s1 hturn hruns hpoint hbound hfill e rfl s2 rfl
  obtain ⟨hunassigned, hother⟩ := step_window hturn hruns hpoint hbound hfill
  exact ⟨decodeEntry_wellFormed _, hunassigned, hother⟩

/-- Settles O12: UNASSIGNED's own writes leave `OUT_POS` and `OUT_LEN`, so both reach the literal step there. -/
theorem literalOutsideOutFaults : Obligations.LiteralOutsideOutFaults := by
  intro b s hfull
  have hfull' : (consume 15 (markUnassigned s)).outLen.toNat ≤ (consume 15 (markUnassigned s)).outPos.toNat := hfull
  exact ⟨by rw [exec_lit, literalStep_of_full b hfull], by rw [exec_unassigned, literalStep_of_full 0 hfull']⟩

/-- Settles O27: the normal end is the chunk pass's first check. -/
theorem fullOutputEndsTheJob : Obligations.FullOutputEndsTheJob := by
  intro s hturn hruns hpoint hout
  refine ⟨jobEnd .none (afterTurn s), ?_, rfl⟩
  rw [step_chunkPass hturn hruns hpoint, chunkPass_full (s := afterTurn s) hout]

/-- Settles O30: the loop's condition is read before any input. -/
theorem chunkEndReturnsToTheChunkPass : Obligations.ChunkEndReturnsToTheChunkPass :=
  fun _ hturn hruns hpoint hbound => step_chunkEnd hturn hruns hpoint hbound

end Sys2Proof.Proofs

/-! PROOF. The host's side of the block (10_state.md sections 2 and 8, 70_reset_and_hazards.md): what each event of the outside
does, START, a broken contract, and the platform's reset. -/

namespace Sys2Proof.Proofs
open Sys2Proof.Machine Sys2Proof.Laws

/-! ### An event of the outside is the next step -/

/-- The state once the next event is taken, `rest` being the events behind it. -/
def withHost (rest : List HostEvent) (s : State) : State := { s with host := rest }

section
variable {s : State} {rest : List HostEvent}

@[simp] theorem withHost_state : (withHost rest s).state = s.state := rfl
@[simp] theorem withHost_placement : (withHost rest s).placement = s.placement := rfl

theorem fetch_of_event {e : HostEvent} (h : s.host = e :: rest) : fetch s = hostFetch e (withHost rest s) := by
  rw [fetch, h]
  rfl

theorem step_of_event_settled {e : HostEvent} {t : State} (h : s.host = e :: rest)
    (hfetch : hostFetch e (withHost rest s) = .settled t) : step s = .next t := by
  rw [step, fetch_of_event h, hfetch]

theorem registerOffset_withHost {offset : Nat} (h : offset % 4 = 0) :
    registerOffset (withHost rest s) (s.placement.regBase + offset) 4 = .ok offset :=
  registerOffset_add (withHost rest s) h

theorem step_regRead {offset : Nat} (h : s.host = .regRead (s.placement.regBase + offset) 4 :: rest)
    (hoffset : offset % 4 = 0) : step s = .next (readRegister offset (withHost rest s)) :=
  step_of_event_settled h (by rw [hostFetch, registerOffset_withHost hoffset])

theorem hostFetch_regWrite {offset : Nat} (v : BitVec 32) (hoffset : offset % 4 = 0) :
    hostFetch (.regWrite (s.placement.regBase + offset) 4 v) (withHost rest s) = writeRegister offset v (withHost rest s) := by
  rw [hostFetch, registerOffset_withHost hoffset]

theorem step_regWrite_settled {offset : Nat} {v : BitVec 32} {t : State}
    (h : s.host = .regWrite (s.placement.regBase + offset) 4 v :: rest) (hoffset : offset % 4 = 0)
    (hwrite : writeRegister offset v (withHost rest s) = .settled t) : step s = .next t :=
  step_of_event_settled h ((hostFetch_regWrite v hoffset).trans hwrite)

end

/-! ### Registers (10 R21 to R26) -/

/-- Each field of STATUS stands in its bits, and the reserved bits are 0 (10 R23). -/
theorem statusWord_fields (s : State) :
    (statusWord s).extractLsb' 0 3 = s.state.code ∧ (statusWord s).getLsbD 3 = false ∧
      (statusWord s).extractLsb' 4 3 = s.stopReason.code ∧ (statusWord s).getLsbD 7 = false ∧
      (statusWord s).getLsbD 8 = s.invalidCodeSeen ∧ (statusWord s).extractLsb' 9 23 = 0 := by
  rw [statusWord]
  generalize s.state.code = state
  generalize s.stopReason.code = reason
  generalize s.invalidCodeSeen = seen
  simp only [BitVec.cast_eq, BitVec.getLsbD_append]
  refine ⟨BitVec.extractLsb'_append_eq_right, rfl, ?_, rfl, ?_, ?_⟩
  · rw [BitVec.extractLsb'_append_eq_of_le (by decide), BitVec.extractLsb'_append_eq_of_le (by decide)]
    exact BitVec.extractLsb'_append_eq_right
  · cases seen <;> rfl
  · rw [BitVec.extractLsb'_append_eq_of_le (by decide), BitVec.extractLsb'_append_eq_of_le (by decide),
      BitVec.extractLsb'_append_eq_of_le (by decide), BitVec.extractLsb'_append_eq_of_le (by decide)]
    exact BitVec.extractLsb'_append_eq_left

/-- Settles O42: the answer is the STATUS word, taken apart field by field. -/
theorem statusReadShowsTheFields : Obligations.StatusReadShowsTheFields := by
  intro s rest h
  exact ⟨_, step_regRead h rfl, rfl, statusWord_fields (withHost rest s)⟩

theorem readResult_of_not_busy {s : State} (v : BitVec 32) (h : s.state ≠ .busy) : readResult v s = answer v s := by
  rw [readResult, if_neg h]

theorem readResult_of_busy {s : State} (v : BitVec 32) (h : s.state = .busy) : readResult v s = answerFree s := by
  rw [readResult, if_pos h]

/-- Settles O43: each offset's read answers its register, and the result registers a free value while BUSY. -/
theorem registerReadsGiveTheRegisters : Obligations.RegisterReadsGiveTheRegisters := by
  intro s rest offset h
  refine ⟨?_, ?_, ?_, ?_, ?_, ?_⟩
  · rintro rfl
    exact step_regRead h rfl
  · rintro rfl
    exact step_regRead h rfl
  · rintro rfl hidle
    exact (step_regRead h rfl).trans (congrArg _ (readResult_of_not_busy (s := withHost rest s) s.produced hidle))
  · rintro rfl hidle
    exact (step_regRead h rfl).trans (congrArg _ (readResult_of_not_busy (s := withHost rest s) s.consumed hidle))
  · rintro rfl hidle
    exact (step_regRead h rfl).trans (congrArg _ (readResult_of_not_busy (s := withHost rest s) s.chunks hidle))
  · rintro hoffset hbusy
    have hread : ∃ v, readRegister offset (withHost rest s) = readResult v (withHost rest s) := by
      rcases hoffset with rfl | rfl | rfl <;> exact ⟨_, rfl⟩
    obtain ⟨v, hv⟩ := hread
    refine ⟨answerFree (withHost rest s), ?_, rfl⟩
    rw [step_regRead h (by omega), hv, readResult_of_busy v (by rwa [withHost_state])]

theorem readRegister_reserved {offset : Nat} (h : offset = 0 ∨ 28 ≤ offset) (s : State) :
    readRegister offset s = answer 0 s := by
  unfold readRegister
  split
  case h_7 => rfl
  all_goals omega

theorem writeRegister_ignored {offset : Nat} (h : offset = 4 ∨ 16 ≤ offset) (v : BitVec 32) (s : State) :
    writeRegister offset v s = .settled s := by
  unfold writeRegister
  split
  case h_4 => rfl
  all_goals omega

/-- Settles O44: neither a read nor a write of these offsets reaches a register. -/
theorem reservedOffsetsReadZeroAndIgnoreWrites : Obligations.ReservedOffsetsReadZeroAndIgnoreWrites := by
  intro s rest offset haligned
  refine ⟨fun hreserved h => ?_, fun v hignored h => ?_⟩
  · rw [step_regRead h haligned, readRegister_reserved hreserved]
    rfl
  · exact step_regWrite_settled h haligned (writeRegister_ignored hignored v _)

/-- Settles O45: the write looks at STATE alone. -/
theorem lengthWritesLandOnlyWhenNotBusy : Obligations.LengthWritesLandOnlyWhenNotBusy :=
  fun _ _ _ => ⟨fun h => step_regWrite_settled h rfl rfl, fun h => step_regWrite_settled h rfl rfl⟩

/-- Settles O46: the access is refused before its offset is looked at. -/
theorem otherRegisterAccessesAreRefused : Obligations.OtherRegisterAccessesAreRefused := by
  intro s rest offset bytes v hwrong
  have hoffset : registerOffset (withHost rest s) (s.placement.regBase + offset) bytes = .error .accessWidth :=
    registerOffset_refused (withHost rest s) hwrong
  exact ⟨fun h => by rw [step, fetch_of_event h, hostFetch, hoffset],
    fun h => by rw [step, fetch_of_event h, hostFetch, hoffset]⟩

/-- Settles O8: bit 0 alone decides what a CTRL word commands (10 R22). -/
theorem ctrlWriteRunsStart : Obligations.CtrlWriteRunsStart := by
  intro s v rest h
  have hfetch : fetch s = writeRegister 0 v (withHost rest s) := (fetch_of_event h).trans (hostFetch_regWrite (offset := 0) v rfl)
  refine ⟨fun hbit => ?_, fun hbit => ?_⟩
  · rw [step, hfetch, writeRegister, decodeCtrl, if_pos hbit]
    rfl
  · rw [step, hfetch, writeRegister, decodeCtrl, if_neg (by rw [hbit]; decide)]
    rfl

/-! ### IN and OUT (10 R37, 70 R240) -/

/-- Settles O47: the offset in the window is the address in the memory, and the mark looks at STATE alone. -/
theorem hostWritesIn : Obligations.HostWritesIn := by
  intro s rest a v ha
  refine ⟨fun h => ⟨hostWriteIn a v (withHost rest s), step_of_event_settled h ?_, rfl, fun b => read_write s.inMem a b v⟩,
    fun h => ⟨hostWriteOut a v (withHost rest s), step_of_event_settled h ?_, rfl, fun b => read_write s.outMem a b v⟩⟩
  · rw [hostFetch, withHost_placement, spaceOffset_add _ ha]
  · rw [hostFetch, withHost_placement, spaceOffset_add _ ha]

/-- Settles O48: the read answers the byte, or a free one while BUSY. -/
theorem hostReadsOut : Obligations.HostReadsOut := by
  intro s rest a ha h
  refine ⟨hostReadOut a (withHost rest s), step_of_event_settled h ?_, ?_, fun hidle => ?_⟩
  · rw [hostFetch, withHost_placement, spaceOffset_add _ ha]
  · rw [hostReadOut]
    split <;> rfl
  · rw [hostReadOut, withHost_state, if_neg hidle]
    rfl

/-! ### START (42 R140 to R142) -/

theorem execStart_of_busy {s : State} (h : s.phase = .busy) : execStart s = .next s := by
  rw [execStart, if_pos h]

theorem execStart_of_input {s : State} (hphase : s.phase ≠ .busy) (hin : s.inLen ≠ 0) :
    execStart s = .next (zeroFill (beginJob s)) := by
  rw [execStart, if_neg hphase, if_neg hin]

/-- Settles O23: with the storage apart, the zero fill marks nothing. -/
theorem startBeginsTheJob : Obligations.StartBeginsTheJob := by
  intro s hphase hin hapart
  refine ⟨zeroFill (beginJob s), by rw [exec_start, execStart_of_input hphase hin], ?_, fun a => read_clearBelow s.outMem _ a⟩
  have hapart' : storageOverlaps (beginJob s) = false := hapart
  rw [zeroFill, hapart']
  rfl

/-- Settles O25: START looks at PHASE first. -/
theorem startWhileBusyIsIgnored : Obligations.StartWhileBusyIsIgnored := fun s h => by
  rw [exec_start, execStart_of_busy h]

/-! ### A broken contract (93 U5, U6; log 6) -/

theorem freeState_ne_busy (w : BitVec 32) : freeState w ≠ .busy := by
  unfold freeState
  split <;> decide

theorem step_spoiled {s : State} (hturn : coreTurn s) (hphase : s.phase = .busy) (hspoiled : s.spoiled = true) :
    step s = .next (jobEndSpoiled (afterTurn s)) :=
  step_of_coreFetch_settled hturn (coreFetch_spoiled (s := afterTurn s) hphase hspoiled)

/-- Settles O26: overlapping storage is the mark that the core's turn looks at first, and no free STATE is BUSY. -/
theorem brokenContractStillEndsTheJob : Obligations.BrokenContractStillEndsTheJob := by
  refine ⟨fun s hphase hin hover => ?_, fun s hturn hphase hspoiled => ?_⟩
  · exact ⟨zeroFill (beginJob s), by rw [exec_start, execStart_of_input hphase hin], rfl, hover⟩
  · refine ⟨_, step_spoiled hturn hphase hspoiled, rfl, freeState_ne_busy _, rfl, fun a ha => ?_, rfl⟩
    rw [jobEndSpoiled_outMem, read_drawBelow, afterTurn_outLen, if_neg (Nat.not_lt.2 ha)]
    rfl

/-! ### Reset (70 R230, 10 R36) -/

theorem platformReset_outMem_of_not_busy {s : State} (h : s.state ≠ .busy) : (platformReset s).outMem = s.outMem := by
  simp only [platformReset, if_neg h]

theorem platformReset_outMem_read {s : State} {a : Nat} (h : s.outLen.toNat ≤ a) :
    (platformReset s).outMem.read a = s.outMem.read a := by
  by_cases hbusy : s.state = .busy
  · simp only [platformReset, if_pos hbusy, drawOut_outMem]
    rw [read_drawBelow, if_neg (Nat.not_lt.2 h)]
  · rw [platformReset_outMem_of_not_busy hbusy]

theorem platformReset_kept (s : State) :
    (platformReset s).inMem = s.inMem ∧ (platformReset s).host = s.host ∧ (platformReset s).placement = s.placement := by
  by_cases hbusy : s.state = .busy
  · simp [platformReset, if_pos hbusy]
  · simp [platformReset, if_neg hbusy]

/-- Settles O49: every register takes its reset value, and free bytes are drawn below `OUT_LEN` alone. -/
theorem resetEventRestoresTheRegisters : Obligations.ResetEventRestoresTheRegisters := by
  intro s rest h
  obtain ⟨hin, hhost, -⟩ := platformReset_kept (withHost rest s)
  exact ⟨platformReset (withHost rest s), step_of_event_settled h rfl, hhost, rfl, rfl, rfl, rfl, rfl, rfl, rfl, rfl, rfl, rfl,
    hin, fun hidle => platformReset_outMem_of_not_busy (s := withHost rest s) hidle,
    fun a ha => platformReset_outMem_read (s := withHost rest s) ha⟩

/-- Settles O50: the reset state is closed, and its STATUS word evaluates. -/
theorem resetValues : Obligations.ResetValues := by
  refine ⟨rfl, rfl, rfl, rfl, rfl, rfl, rfl, rfl, rfl, rfl, by decide⟩

end Sys2Proof.Proofs

/-! PROOF. What an event of the outside can do (`HostEffect`), and that every step keeps the invariant: one lemma for each
operation that a step runs. -/

namespace Sys2Proof.Proofs
open Sys2Proof.Machine Sys2Proof.Laws

/-! ### The events of the outside -/

/-- What an event that is not the core's turn leaves, read against the state without it. -/
inductive HostEffect (s : State) : HostEvent → State → Prop
  /-- A read of a register or of OUT. -/
  | answered (e : HostEvent) (v : BitVec 32) (n : Nat) : HostEffect s e (answer v { s with draws := n })
  /-- A write that has no effect. -/
  | ignored (e : HostEvent) : HostEffect s e s
  /-- 10 R24. -/
  | inLenWritten (e : HostEvent) (v : BitVec 32) (hidle : s.state ≠ .busy) : HostEffect s e { s with inLen := v }
  /-- 10 R25. -/
  | outLenWritten (e : HostEvent) (v : BitVec 32) (hidle : s.state ≠ .busy) : HostEffect s e { s with outLen := v }
  /-- 10 R37. -/
  | inWritten (addr : Nat) {a : Nat} (v : BitVec 8) (ha : a < 2 ^ 32) : HostEffect s (.inWrite addr v) (hostWriteIn a v s)
  /-- 70 R240. -/
  | outWritten (addr : Nat) {a : Nat} (v : BitVec 8) (ha : a < 2 ^ 32) : HostEffect s (.outWrite addr v) (hostWriteOut a v s)
  /-- 10 R22, 42 R140. -/
  | started (bytes : Nat) {v : BitVec 32} {t : State} (hbit : v.getLsbD 0 = true) (hstart : execStart s = .next t) :
      HostEffect s (.regWrite s.placement.regBase bytes v) t
  /-- 70 R230. -/
  | reset : HostEffect s .reset (platformReset s)

theorem lt_of_spaceOffset {base addr a : Nat} (h : spaceOffset base addr = some a) : a < 2 ^ 32 := by
  rw [spaceOffset, spaceSize] at h
  split at h
  · have := Option.some.inj h
    omega
  · exact absurd h (by simp)

theorem addr_of_registerOffset {s : State} {addr bytes offset : Nat} (h : registerOffset s addr bytes = .ok offset) :
    addr = s.placement.regBase + offset := by
  rw [registerOffset] at h
  split at h
  · exact absurd h (by simp)
  · split at h
    · have := Except.ok.inj h
      omega
    · exact absurd h (by simp)

theorem readResult_answers (v : BitVec 32) (s : State) : ∃ w n, readResult v s = answer w { s with draws := n } := by
  by_cases hbusy : s.state = .busy
  · exact ⟨_, _, readResult_of_busy v hbusy⟩
  · exact ⟨v, s.draws, readResult_of_not_busy v hbusy⟩

theorem readRegister_answers (offset : Nat) (s : State) : ∃ w n, readRegister offset s = answer w { s with draws := n } := by
  unfold readRegister
  split
  case h_4 => exact readResult_answers _ s
  case h_5 => exact readResult_answers _ s
  case h_6 => exact readResult_answers _ s
  all_goals exact ⟨_, s.draws, rfl⟩

theorem hostReadOut_answers (a : Nat) (s : State) : ∃ w n, hostReadOut a s = answer w { s with draws := n } := by
  by_cases hbusy : s.state = .busy
  · exact ⟨_, _, by rw [hostReadOut, if_pos hbusy]⟩
  · exact ⟨_, s.draws, by rw [hostReadOut, if_neg hbusy]⟩

/-- A register write starts a job by a CTRL word with bit 0 set, or it settles. -/
theorem writeRegister_cases (e : HostEvent) (offset : Nat) (v : BitVec 32) (s : State) :
    (offset = 0 ∧ v.getLsbD 0 = true ∧ writeRegister offset v s = .instr .start s) ∨
      ∃ t, writeRegister offset v s = .settled t ∧ HostEffect s e t := by
  unfold writeRegister
  split
  case h_1 =>
    by_cases hbit : v.getLsbD 0 = true
    · exact .inl ⟨rfl, hbit, by rw [decodeCtrl, if_pos hbit]⟩
    · exact .inr ⟨s, by rw [decodeCtrl, if_neg hbit], .ignored e⟩
  case h_2 =>
    by_cases hbusy : s.state = .busy
    · exact .inr ⟨s, by rw [if_pos hbusy], .ignored e⟩
    · exact .inr ⟨_, by rw [if_neg hbusy], .inLenWritten e v hbusy⟩
  case h_3 =>
    by_cases hbusy : s.state = .busy
    · exact .inr ⟨s, by rw [if_pos hbusy], .ignored e⟩
    · exact .inr ⟨_, by rw [if_neg hbusy], .outLenWritten e v hbusy⟩
  case h_4 => exact .inr ⟨s, rfl, .ignored e⟩

/-- START never faults. -/
theorem execStart_next (s : State) : ∃ t, execStart s = .next t := by
  by_cases hphase : s.phase = .busy
  · exact ⟨s, execStart_of_busy hphase⟩
  · by_cases hin : s.inLen = 0
    · exact ⟨_, execStart_of_empty hphase hin⟩
    · exact ⟨_, execStart_of_input hphase hin⟩

/-- A fetched event is refused, starts a job, or settles. -/
theorem hostFetch_cases {e : HostEvent} (he : e ≠ .coreTurn) (s : State) :
    (∃ r, hostFetch e s = .refused r) ∨ (∃ t, hostFetch e s = .settled t ∧ HostEffect s e t) ∨
      (∃ t, hostFetch e s = .instr .start s ∧ execStart s = .next t ∧ HostEffect s e t) := by
  cases e with
  | coreTurn => exact absurd rfl he
  | regRead addr bytes =>
    cases hoffset : registerOffset s addr bytes with
    | error r => exact .inl ⟨r, by rw [hostFetch, hoffset]⟩
    | ok offset =>
      obtain ⟨v, n, hread⟩ := readRegister_answers offset s
      exact .inr (.inl ⟨_, by rw [hostFetch, hoffset]; exact congrArg _ hread, .answered _ v n⟩)
  | regWrite addr bytes v =>
    cases hoffset : registerOffset s addr bytes with
    | error r => exact .inl ⟨r, by rw [hostFetch, hoffset]⟩
    | ok offset =>
      rcases writeRegister_cases (.regWrite addr bytes v) offset v s with ⟨rfl, hbit, hwrite⟩ | ⟨t, hwrite, heffect⟩
      · obtain ⟨t, hstart⟩ := execStart_next s
        obtain rfl : addr = s.placement.regBase := addr_of_registerOffset hoffset
        exact .inr (.inr ⟨t, by rw [hostFetch, hoffset]; exact hwrite, hstart, .started bytes hbit hstart⟩)
      · exact .inr (.inl ⟨t, by rw [hostFetch, hoffset]; exact hwrite, heffect⟩)
  | inWrite addr v =>
    cases ha : spaceOffset s.placement.inBase addr with
    | none => exact .inl ⟨_, by rw [hostFetch, ha]⟩
    | some a => exact .inr (.inl ⟨_, by rw [hostFetch, ha], .inWritten addr v (lt_of_spaceOffset ha)⟩)
  | outRead addr =>
    cases ha : spaceOffset s.placement.outBase addr with
    | none => exact .inl ⟨_, by rw [hostFetch, ha]⟩
    | some a =>
      obtain ⟨v, n, hread⟩ := hostReadOut_answers a s
      exact .inr (.inl ⟨_, by rw [hostFetch, ha]; exact congrArg _ hread, .answered _ v n⟩)
  | outWrite addr v =>
    cases ha : spaceOffset s.placement.outBase addr with
    | none => exact .inl ⟨_, by rw [hostFetch, ha]⟩
    | some a => exact .inr (.inl ⟨_, by rw [hostFetch, ha], .outWritten addr v (lt_of_spaceOffset ha)⟩)
  | reset => exact .inr (.inl ⟨_, rfl, .reset⟩)

/-- The step of an event is refused, or has its effect. -/
theorem step_of_event {e : HostEvent} {s : State} {rest : List HostEvent} (h : s.host = e :: rest) (he : e ≠ .coreTurn) :
    (∃ r, step s = .refused r) ∨ ∃ t, step s = .next t ∧ HostEffect (withHost rest s) e t := by
  rcases hostFetch_cases he (withHost rest s) with ⟨r, hfetch⟩ | ⟨t, hfetch, heffect⟩ | ⟨t, hfetch, hstart, heffect⟩
  · exact .inl ⟨r, by rw [step, fetch_of_event h, hfetch]⟩
  · exact .inr ⟨t, step_of_event_settled h hfetch, heffect⟩
  · exact .inr ⟨t, by rw [step, fetch_of_event h, hfetch]; exact hstart, heffect⟩

theorem hostEffect_of_step {e : HostEvent} {s t : State} {rest : List HostEvent} (h : s.host = e :: rest) (he : e ≠ .coreTurn)
    (hstep : step s = .next t) : HostEffect (withHost rest s) e t := by
  rcases step_of_event h he with ⟨r, hrefused⟩ | ⟨t', hnext, heffect⟩
  · exact absurd (hrefused.symm.trans hstep) (by simp)
  · rwa [← Host.Outcome.next.inj (hnext.symm.trans hstep)]

/-- A step is the core's turn or an event's. -/
theorem coreTurn_or_event (s : State) : coreTurn s ∨ ∃ e rest, s.host = e :: rest ∧ e ≠ .coreTurn := by
  cases h : s.host with
  | nil => exact .inl (.inl h)
  | cons e rest =>
    by_cases he : e = .coreTurn
    · exact .inl (.inr (by rw [h, he]; rfl))
    · exact .inr ⟨e, rest, rfl, he⟩

/-! ### Memories in their form and bounds (log 14) -/

section
variable {w lo hi : Nat} {m : Memory w}

theorem within_of_reads {m' : Memory w} (h : m.within lo hi) (hwf : m'.wf)
    (hread : ∀ a, a < lo ∨ hi ≤ a → m'.read a = m.read a) : m'.within lo hi :=
  ⟨hwf, fun a ha => (hread a ha).trans (h.2 a ha)⟩

theorem within_write (h : m.within lo hi) {a : Nat} (hlo : lo ≤ a) (hhi : a < hi) (v : BitVec w) : (m.write a v).within lo hi :=
  within_of_reads h (wf_write h.1 a v) fun b hb => read_write_other m v (by omega)

theorem within_clearBelow (h : m.within lo hi) (n : Nat) : (m.clearBelow n).within lo hi := by
  refine ⟨wf_clearBelow h.1 n, fun a ha => ?_⟩
  rw [read_clearBelow, h.2 a ha]
  split <;> rfl

theorem within_drawBelow (h : m.within 0 hi) {n : Nat} (hn : n ≤ hi) (f : Nat → BitVec w) : (m.drawBelow n f).within 0 hi :=
  within_of_reads h (wf_drawBelow h.1 n f) fun a ha => by rw [read_drawBelow, if_neg (by omega)]

end

/-! ### The invariant at reset (10 R36) -/

/-- Settles O51: no job runs, and every register and memory is empty (log 3, log 14). -/
theorem resetSatisfiesTheInvariant : Obligations.ResetSatisfiesTheInvariant := by
  have hempty {w lo hi : Nat} : (⟨[]⟩ : Memory w).within lo hi := ⟨wf_nil, fun _ _ => read_nil _⟩
  exact {
    acc := ⟨by decide, by decide⟩
    idle := fun _ => rfl
    busy := by decide
    spoiled := by decide
    inPos := by decide
    outPos := by decide
    nhdr := by decide
    chunk := by decide
    tail := fun h => absurd h (by decide)
    entries := fun i => ⟨by rw [show State.reset.tab = ⟨[]⟩ from rfl, read_nil]; decide, fun _ => rfl⟩
    lengths := hempty
    tab := hempty
    count := hempty
    next := hempty
    inMem := hempty
    outMem := hempty }

/-! ### The invariant after an event of the outside -/

section
variable {s : State}

theorem inv_afterTurn (h : s.Inv) : (afterTurn s).Inv := { h with }

theorem inv_withHost (h : s.Inv) (rest : List HostEvent) : (withHost rest s).Inv := { h with }

theorem inv_answer (h : s.Inv) (v : BitVec 32) (n : Nat) : (answer v { s with draws := n }).Inv := { h with }

theorem not_busy_of_state (h : s.Inv) (hidle : s.state ≠ .busy) : s.phase ≠ .busy := fun hbusy => hidle (h.busy.1 hbusy)

theorem inv_inLenWritten (h : s.Inv) (hidle : s.state ≠ .busy) (v : BitVec 32) : State.Inv { s with inLen := v } :=
  have hphase := not_busy_of_state h hidle
  { h with inPos := fun hbusy => absurd hbusy hphase }

theorem inv_outLenWritten (h : s.Inv) (hidle : s.state ≠ .busy) (v : BitVec 32) : State.Inv { s with outLen := v } :=
  have hphase := not_busy_of_state h hidle
  { h with
    outPos := fun hbusy => absurd hbusy hphase
    chunk := fun hbusy => absurd hbusy hphase
    tail := fun hbusy => absurd hbusy hphase }

/-- Marking a job leaves the tail of OUT unsaid, and only a running job is marked (93 U6; log 6). -/
theorem inv_spoilIfBusy {m : Memory 8} (h : s.Inv) (hm : m.within 0 (2 ^ 32)) :
    (spoilIfBusy { s with outMem := m }).Inv :=
  { h with
    spoiled := fun hspoiled => by
      rcases Bool.or_eq_true_iff.1 hspoiled with hold | hbusy
      · exact h.spoiled hold
      · exact h.busy.2 (of_decide_eq_true hbusy)
    tail := fun hphase hspoiled => by
      have hbusy : decide (s.state = .busy) = true := decide_eq_true (h.busy.1 hphase)
      have hnew : (s.spoiled || decide (s.state = .busy)) = false := hspoiled
      rw [hbusy, Bool.or_true] at hnew
      exact absurd hnew (by decide)
    outMem := hm }

theorem inv_hostWriteOut (h : s.Inv) {a : Nat} (ha : a < 2 ^ 32) (v : BitVec 8) : (hostWriteOut a v s).Inv :=
  inv_spoilIfBusy h (within_write h.outMem (Nat.zero_le a) ha v)

theorem inv_hostWriteIn (h : s.Inv) {a : Nat} (ha : a < 2 ^ 32) (v : BitVec 8) : (hostWriteIn a v s).Inv :=
  { inv_spoilIfBusy h h.outMem with inMem := within_write h.inMem (Nat.zero_le a) ha v }

theorem inv_platformReset (h : s.Inv) : (platformReset s).Inv := by
  have hout : (platformReset s).outMem.within 0 (2 ^ 32) := by
    by_cases hbusy : s.state = .busy
    · simp only [platformReset, if_pos hbusy, drawOut_outMem]
      exact within_drawBelow h.outMem s.outLen.isLt.le _
    · rw [platformReset_outMem_of_not_busy hbusy]
      exact h.outMem
  have hin : (platformReset s).inMem.within 0 (2 ^ 32) := by
    rw [(platformReset_kept s).1]
    exact h.inMem
  have hidle : Phase.idle ≠ .busy := by decide
  exact { resetSatisfiesTheInvariant with inMem := hin, outMem := hout, tail := fun hbusy => absurd hbusy hidle }

theorem result_ne_busy (r : StopReason) : r.result ≠ .busy := by
  cases r <;> decide

/-- The end of a job, whatever its reason (60 R202). -/
theorem inv_jobEnd (h : s.Inv) (hspoiled : s.spoiled = false) (r : StopReason) : (jobEnd r s).Inv :=
  have hdone : Phase.done ≠ .busy := by decide
  have hnotIdle : Phase.done ≠ .idle := by decide
  { h with
    idle := fun hphase => absurd hphase hnotIdle
    busy := ⟨fun hphase => absurd hphase hdone, fun hstate => absurd hstate (result_ne_busy r)⟩
    spoiled := fun hmark => absurd (hspoiled.symm.trans hmark) (by decide)
    inPos := fun hphase => absurd hphase hdone
    outPos := fun hphase => absurd hphase hdone
    nhdr := fun hphase => absurd hphase hdone
    chunk := fun hphase => absurd hphase hdone
    tail := fun hphase => absurd hphase hdone }

theorem spoiled_of_not_busy (h : s.Inv) (hphase : s.phase ≠ .busy) : s.spoiled = false := by
  cases hmark : s.spoiled with
  | false => rfl
  | true => exact absurd (h.spoiled hmark) hphase

/-- START's zero fill and the entry of the chunk loop (42 R142): the whole of OUT is the tail that reads 0. -/
theorem inv_zeroFill_beginJob (h : s.Inv) : (zeroFill (beginJob s)).Inv :=
  have hnotIdle : Phase.busy ≠ .idle := by decide
  have hnotLoop : JobPoint.chunkPass ≠ .symbolLoop := by decide
  { h with
    idle := fun hphase => absurd hphase hnotIdle
    busy := ⟨fun _ => rfl, fun _ => rfl⟩
    spoiled := fun _ => rfl
    inPos := fun _ => Nat.zero_le _
    outPos := fun _ => Nat.zero_le _
    nhdr := fun _ => Nat.zero_le _
    chunk := fun _ hpoint => absurd hpoint hnotLoop
    tail := fun _ _ a _ ha => (read_clearBelow s.outMem s.outLen.toNat a).trans (if_pos ha)
    outMem := within_clearBelow h.outMem _ }

/-- START on an empty input ends the job before it has begun (42 R141). -/
theorem inv_jobEnd_beginJob (h : s.Inv) (hphase : s.phase ≠ .busy) : (jobEnd .invalidInput (beginJob s)).Inv :=
  have hdone : Phase.done ≠ .busy := by decide
  have hnotIdle : Phase.done ≠ .idle := by decide
  { inv_jobEnd h (spoiled_of_not_busy h hphase) .invalidInput with
    inPos := fun hbusy => absurd hbusy hdone
    outPos := fun hbusy => absurd hbusy hdone
    nhdr := fun hbusy => absurd hbusy hdone
    chunk := fun hbusy => absurd hbusy hdone
    tail := fun hbusy => absurd hbusy hdone }

theorem inv_execStart {t : State} (h : s.Inv) (hstart : execStart s = .next t) : t.Inv := by
  by_cases hphase : s.phase = .busy
  · rwa [← Host.Outcome.next.inj ((execStart_of_busy hphase).symm.trans hstart)]
  · by_cases hin : s.inLen = 0
    · rw [← Host.Outcome.next.inj ((execStart_of_empty hphase hin).symm.trans hstart)]
      exact inv_jobEnd_beginJob h hphase
    · rw [← Host.Outcome.next.inj ((execStart_of_input hphase hin).symm.trans hstart)]
      exact inv_zeroFill_beginJob h

/-- Every event of the outside keeps the invariant. -/
theorem inv_hostEffect {e : HostEvent} {t : State} (h : s.Inv) (heffect : HostEffect s e t) : t.Inv := by
  cases heffect with
  | answered e v n => exact inv_answer h v n
  | ignored => exact h
  | inLenWritten e v hidle => exact inv_inLenWritten h hidle v
  | outLenWritten e v hidle => exact inv_outLenWritten h hidle v
  | inWritten addr v ha => exact inv_hostWriteIn h ha v
  | outWritten addr v ha => exact inv_hostWriteOut h ha v
  | started bytes hbit hstart => exact inv_execStart h hstart
  | reset => exact inv_platformReset h

/-! ### The invariant after an operation of the job -/

theorem inv_jobEndSpoiled (h : s.Inv) : (jobEndSpoiled s).Inv :=
  have hdone : Phase.done ≠ .busy := by decide
  have hnotIdle : Phase.done ≠ .idle := by decide
  { h with
    idle := fun hphase => absurd hphase hnotIdle
    busy := ⟨fun hphase => absurd hphase hdone, fun hstate => absurd hstate (freeState_ne_busy _)⟩
    spoiled := fun hmark => absurd hmark (by rw [jobEndSpoiled_spoiled]; decide)
    inPos := fun hphase => absurd hphase hdone
    outPos := fun hphase => absurd hphase hdone
    nhdr := fun hphase => absurd hphase hdone
    chunk := fun hphase => absurd hphase hdone
    tail := fun hphase => absurd hphase hdone
    outMem := within_drawBelow h.outMem s.outLen.isLt.le _ }

/-- In the symbol loop, before the chunk's bound, there is room for output (90 C8). -/
theorem room_in_loop (h : s.Inv) (hphase : s.phase = .busy) (hpoint : s.point = .symbolLoop)
    (hbound : s.outPos.toNat - s.chunkStart.toNat < s.chunkBound.toNat) : s.outPos.toNat < s.outLen.toNat := by
  obtain ⟨hstart, -, -, hend⟩ := h.chunk hphase hpoint
  omega

theorem inv_symbolRead {v : State} (h : s.Inv) (hphase : s.phase = .busy) (hread : SymbolRead s v) : v.Inv := by
  have hahead := hread.forward.ahead h.acc
  have hinside := hread.forward.inside h.acc
  have hclean := hread.forward.clean h.acc
  have hin := h.inPos hphase
  have hnhdr := h.nhdr hphase
  rw [hread.same]
  exact { h with
    acc := hclean
    inPos := fun _ => hinside.trans (max_le hin le_rfl)
    nhdr := fun _ => hnhdr.trans hahead }

theorem inv_emits {v t : State} (h : v.Inv) (hphase : v.phase = .busy) (hspoiled : v.spoiled = false)
    (hroom : v.outPos.toNat < v.outLen.toNat) (hemits : Emits v t) : t.Inv := by
  obtain ⟨hlt, hle⟩ := hemits.room hroom
  have hkept := hemits.kept
  have hout : t.outMem.within 0 (2 ^ 32) := within_of_reads h.outMem (hemits.wf h.outMem.1) fun a ha => hkept a (by
    have := t.outPos.isLt
    omega)
  have htail := h.tail hphase hspoiled
  rw [hemits.same]
  exact { h with
    outPos := fun _ => hle
    chunk := fun hbusy hpoint => by
      obtain ⟨hstart, hmin, hmax, hend⟩ := h.chunk hbusy hpoint
      exact ⟨hstart.trans hlt.le, hmin, hmax, hend⟩
    tail := fun _ _ a ha ha' => by
      have ha : t.outPos.toNat ≤ a := ha
      exact (hkept a (by omega)).trans (htail a (by omega) ha')
    outMem := hout }

end

/-! ### The invariant after a chunk pass -/

theorem tableEntry_toNat_lt (len : BitVec 4) (sym : BitVec 9) : (tableEntry len sym).toNat < 2 ^ 13 := by
  have hlen := len.isLt
  have hsym := sym.isLt
  rw [tableEntry, BitVec.toNat_cast, BitVec.toNat_append, BitVec.toNat_append, BitVec.toNat_ofNat, Nat.zero_mod,
    Nat.zero_shiftLeft, Nat.zero_or, Nat.shiftLeft_eq]
  exact Nat.or_lt_two_pow (by omega) (by omega)

theorem readHeader_lengths_within {s : State} (h : s.lengths.within 0 512) : (readHeader s).lengths.within 0 512 :=
  within_of_reads h (wf_unpackHeader _ _ h.1) fun sym hsym => by rw [readHeader_lengths, if_neg (by omega)]

theorem build_count_within {s : State} (h : s.count.within 1 16) : (build s).count.within 1 16 := by
  rw [build_count]
  exact within_of_reads h (wf_countLengths s.lengths h.1) fun len hlen => by rw [countLengths_read, if_neg (by omega)]

/-- Placing a symbol writes `NEXT` at its length alone. -/
theorem placedBelow_next_outside (s : State) {len : Nat} (hlen : len < 1 ∨ 16 ≤ len) (n : Nat) :
    (placedBelow s n).1.read len = s.next.read len := by
  induction n with
  | zero =>
    rw [placedBelow_zero, firstCodes_read s.lengths _ _ _ fun _ => countLengths_toNat s.lengths s.count, if_neg (by omega)]
  | succ n ih =>
    have hmax := length_le s.lengths n
    rw [placedBelow_succ, placeSymbol_next, if_neg (by omega), ih]

theorem placedBelow_tab_outside (s : State) {i : Nat} (hi : 32768 ≤ i) (n : Nat) :
    (placedBelow s n).2.read i = s.tab.read i := by
  induction n with
  | zero => rw [placedBelow_zero, clearTab_read, if_neg (Nat.not_lt.2 hi)]
  | succ n ih => rw [placedBelow_succ, placeSymbol_tab_outside _ _ _ _ hi, ih]

theorem build_next_within {s : State} (hn : s.next.within 1 16) (ht : s.tab.wf) (hc : s.count.wf) :
    (build s).next.within 1 16 :=
  within_of_reads hn (wf_build hn.1 ht hc).1 fun len hlen => by
    rw [build_next, ← placedBelow]
    exact placedBelow_next_outside s hlen 512

theorem build_tab_within {s : State} (ht : s.tab.within 0 32768) (hn : s.next.wf) (hc : s.count.wf) :
    (build s).tab.within 0 32768 :=
  within_of_reads ht (wf_build hn ht.1 hc).2.1 fun i hi => by
    rw [build_tab, ← placedBelow]
    exact placedBelow_tab_outside s (by omega) 512

/-- 30 R75 of every entry that BUILD leaves. -/
theorem build_entries {s : State} (h : (build s).tab.within 0 32768) (i : Nat) :
    ((build s).tab.read i).toNat < 2 ^ 13 ∧ (entryLen ((build s).tab.read i) = 0 → (build s).tab.read i = 0) := by
  rcases Nat.lt_or_ge i 32768 with hi | hi
  · rcases build_tab_cases s hi with ⟨sym, hsym, hslot, hread⟩ | ⟨-, hread⟩
    · rw [hread, symbolEntry]
      refine ⟨tableEntry_toNat_lt _ _, fun h0 => ?_⟩
      rw [entryLen_tableEntry] at h0
      exact absurd h0 (length_ne_zero_of_slotOf hslot)
    · rw [hread]
      exact ⟨by decide, fun _ => rfl⟩
  · rw [h.2 i (.inr hi)]
    exact ⟨by decide, fun _ => rfl⟩

theorem inv_chunkOpened {s : State} (h : s.Inv) (hphase : s.phase = .busy) (hout : s.outPos.toNat < s.outLen.toNat)
    (hin : 256 ≤ s.inLen.toNat - s.inPos.toNat) : (chunkOpened s).Inv := by
  have hempty : (0 : BitVec 64).toNat < 2 ^ (0 : BitVec 7).toNat ∧ (0 : BitVec 7).toNat ≤ 23 := by decide
  have hbefore := h.nhdr hphase
  have hpos : (s.inPos + 256).toNat = s.inPos.toNat + 256 := toNat_add_ofNat_of_le (len := s.inLen) (n := 256) (by omega)
  have hnhdr : (s.nhdr + 1).toNat = s.nhdr.toNat + 1 :=
    toNat_add_ofNat_of_le (len := s.inLen) (n := 1) (by omega)
  have hinside : (s.inPos + 256).toNat ≤ s.inLen.toNat := by omega
  have hheaders : 256 * (s.nhdr + 1).toNat ≤ (s.inPos + 256).toNat := by omega
  have hbound : (BitVec.ofNat 17 (min 65536 (s.outLen.toNat - s.outPos.toNat))).toNat =
      min 65536 (s.outLen.toNat - s.outPos.toNat) := by rw [BitVec.toNat_ofNat]; omega
  have hchunk : s.outPos.toNat ≤ s.outPos.toNat ∧
      1 ≤ (BitVec.ofNat 17 (min 65536 (s.outLen.toNat - s.outPos.toNat))).toNat ∧
      (BitVec.ofNat 17 (min 65536 (s.outLen.toNat - s.outPos.toNat))).toNat ≤ 65536 ∧
      s.outPos.toNat + (BitVec.ofNat 17 (min 65536 (s.outLen.toNat - s.outPos.toNat))).toNat ≤ s.outLen.toNat := by omega
  have hlengths := readHeader_lengths_within h.lengths
  have htab : (build (readHeader s)).tab.within 0 32768 := build_tab_within h.tab h.next.1 h.count.1
  have hnext : (build (readHeader s)).next.within 1 16 := build_next_within h.next h.tab.1 h.count.1
  have hcount : (build (readHeader s)).count.within 1 16 := build_count_within h.count
  have hentries := build_entries htab
  rw [chunkOpened_eq]
  generalize build (readHeader s) = built at htab hnext hcount hentries ⊢
  generalize readHeader s = header at hlengths ⊢
  exact { h with
    acc := hempty
    inPos := fun _ => hinside
    nhdr := fun _ => hheaders
    chunk := fun _ _ => hchunk
    entries := hentries
    lengths := hlengths
    tab := htab
    count := hcount
    next := hnext }

/-- Every operation of a running job keeps the invariant. -/
theorem inv_jobStep {s t : State} (h : s.Inv) (hruns : jobRuns s) (hjob : JobStep s t) : t.Inv := by
  obtain ⟨hphase, hspoiled⟩ := hruns
  cases hjob with
  | complete hpoint hout => exact inv_jobEnd h hspoiled .none
  | headerShort hpoint hout hin => exact inv_jobEnd h hspoiled .headerShort
  | opened hpoint hout hin => exact inv_chunkOpened h hphase hout hin
  | chunkEnd hpoint hbound =>
    have hnotLoop : JobPoint.chunkPass ≠ .symbolLoop := by decide
    exact { h with chunk := fun _ hloop => absurd hloop hnotLoop }
  | stopped hpoint hbound hr hread =>
    exact inv_jobEnd (inv_symbolRead h hphase hread) (hread.spoiled.trans hspoiled) _
  | emitted hpoint hbound hread hemits =>
    have hroom := room_in_loop h hphase hpoint hbound
    refine inv_emits (inv_symbolRead h hphase hread) (hread.phase.trans hphase) (hread.spoiled.trans hspoiled) ?_ hemits
    rwa [hread.outPos, hread.outLen]

/-- Settles O52: the core's turn runs no operation, ends a spoiled job, or runs a `JobStep`; an event has its effect. -/
theorem everyStepKeepsTheInvariant : Obligations.EveryStepKeepsTheInvariant := by
  intro s t h hstep
  rcases coreTurn_or_event s with hturn | ⟨e, rest, hhost, he⟩
  · have h' := inv_afterTurn h
    by_cases hphase : s.phase = .busy
    · cases hspoiled : s.spoiled with
      | true =>
        rw [← Host.Outcome.next.inj ((step_spoiled hturn hphase hspoiled).symm.trans hstep)]
        exact inv_jobEndSpoiled h'
      | false => exact inv_jobStep h' ⟨hphase, hspoiled⟩ (jobStep_of_step hturn ⟨hphase, hspoiled⟩ hstep)
    · rwa [← Host.Outcome.next.inj ((coreRestsWhenNotBusy s hturn hphase).symm.trans hstep)]
  · exact inv_hostEffect (inv_withHost h rest) (hostEffect_of_step hhost he hstep)

/-- Settles O53: the one fault is where OUT has no byte at `OUT_POS`, and the loop runs a symbol with room for output. -/
theorem invariantRulesOutFaults : Obligations.InvariantRulesOutFaults := by
  intro s h
  have hcore (hturn : coreTurn s) : ∃ t, step s = .next t := by
    by_cases hphase : s.phase = .busy
    · cases hspoiled : s.spoiled with
      | true => exact ⟨_, step_spoiled hturn hphase hspoiled⟩
      | false =>
        rcases step_of_job hturn ⟨hphase, hspoiled⟩ with ⟨t, hnext, _⟩ | ⟨_, hpoint, hbound, hfull⟩
        · exact ⟨t, hnext⟩
        · exact absurd (room_in_loop h hphase hpoint hbound) (Nat.not_lt.2 hfull)
    · exact ⟨_, coreRestsWhenNotBusy s hturn hphase⟩
  refine ⟨fun f hfault => ?_, hcore⟩
  rcases coreTurn_or_event s with hturn | ⟨e, rest, hhost, he⟩
  · obtain ⟨t, hnext⟩ := hcore hturn
    exact absurd (hnext.symm.trans hfault) (by simp)
  · rcases step_of_event hhost he with ⟨r, hrefused⟩ | ⟨t, hnext, _⟩
    · exact absurd (hrefused.symm.trans hfault) (by simp)
    · exact absurd (hnext.symm.trans hfault) (by simp)

end Sys2Proof.Proofs

/-! PROOF. The job as a whole (42_decoder.md section 5, 60_exceptions.md): how it ends, and what it writes and reads. Each
statement reads the cases of `JobStep`. -/

namespace Sys2Proof.Proofs
open Sys2Proof.Machine Sys2Proof.Laws

/-- The step of a running job from a state of the invariant. -/
theorem jobStep_of_inv {s : State} (h : s.Inv) (hturn : coreTurn s) (hruns : jobRuns s) :
    ∃ t, step s = .next t ∧ JobStep (afterTurn s) t := by
  rcases step_of_job hturn hruns with hnext | ⟨_, hpoint, hbound, hfull⟩
  · exact hnext
  · exact absurd (room_in_loop h hruns.1 hpoint hbound) (Nat.not_lt.2 hfull)

/-! ### How a job ends (60 R201, R202) -/

/-- A job ends in `jobEnd`, and in no other way: COMPLETE with the output full, or TRUNCATED from a state `v` that has emitted
nothing more. -/
theorem jobStep_done {s t : State} (hphase : s.phase = .busy) (hjob : JobStep s t) (hdone : t.phase = .done) :
    (t = jobEnd .none s ∧ s.outLen.toNat ≤ s.outPos.toNat) ∨
      ∃ r v, t = jobEnd r v ∧ r.result = .truncated ∧ SymbolRead s v ∧
        (s.point = .chunkPass → s.outPos.toNat < s.outLen.toNat) ∧
        (s.point = .symbolLoop → s.outPos.toNat - s.chunkStart.toNat < s.chunkBound.toNat) := by
  have hrunning (u : State) (hsame : u.phase = s.phase) : u.phase ≠ .done := by
    rw [hsame, hphase]
    decide
  cases hjob with
  | complete hpoint hout => exact .inl ⟨rfl, hout⟩
  | headerShort hpoint hout hin =>
    exact .inr ⟨_, s, rfl, rfl, symbolRead_refl s, fun _ => hout, fun h => absurd (hpoint.symm.trans h) (by decide)⟩
  | opened hpoint hout hin => exact absurd hdone (hrunning _ (by rw [chunkOpened_eq]))
  | chunkEnd hpoint hbound => exact absurd hdone (hrunning _ rfl)
  | stopped hpoint hbound hr hread =>
    exact .inr ⟨_, _, rfl, hr, hread, fun h => absurd (hpoint.symm.trans h) (by decide), fun _ => hbound⟩
  | emitted hpoint hbound hread hemits => exact absurd hdone (hrunning _ (hemits.phase.trans hread.phase))

/-- Settles O56: both kinds of end are `jobEnd`. -/
theorem jobEndRecordsTheResult : Obligations.JobEndRecordsTheResult := by
  intro s t hturn hruns hstep hdone
  rcases jobStep_done (s := afterTurn s) hruns.1 (jobStep_of_step hturn hruns hstep) hdone with ⟨rfl, _⟩ | ⟨r, v, rfl, _⟩
  · exact ⟨rfl, rfl, rfl, rfl, rfl⟩
  · exact ⟨rfl, rfl, rfl, rfl, rfl⟩

/-- Settles O58: a stop comes with room for output, the normal end without. -/
theorem endedJobLeavesItsPrefixAndZeros : Obligations.EndedJobLeavesItsPrefixAndZeros := by
  intro s t h hturn hruns hstep hdone
  obtain ⟨hphase, hspoiled⟩ := hruns
  have houtPos := h.outPos hphase
  have htail := h.tail hphase hspoiled
  rcases jobStep_done (s := afterTurn s) hphase (jobStep_of_step hturn ⟨hphase, hspoiled⟩ hstep) hdone with
    ⟨rfl, hfull⟩ | ⟨r, v, rfl, hr, hread, hpass, hloop⟩
  · have heq : s.outPos = s.outLen := BitVec.eq_of_toNat_eq (le_antisymm houtPos hfull)
    exact ⟨.inr ⟨rfl, heq⟩, htail⟩
  · have hroom : s.outPos.toNat < s.outLen.toNat := by
      cases hpoint : s.point with
      | chunkPass => exact hpass hpoint
      | symbolLoop => exact room_in_loop h hphase hpoint (hloop hpoint)
    rw [jobEnd_produced, jobEnd_outLen, jobEnd_outMem, jobEnd_state, hread.outPos, hread.outLen, hread.outMem]
    exact ⟨.inl ⟨hr, hroom⟩, htail⟩

/-! ### What an operation of the job writes and reads (20 R50, R64) -/

/-- Settles O59: a symbol's output alone writes OUT, and the loop runs it with room. -/
theorem outputIsWrittenLeftToRight : Obligations.OutputIsWrittenLeftToRight := by
  intro s t h hturn hruns hstep
  have hphase := hruns.1
  have houtPos := h.outPos hphase
  have hquiet (u : State) (hpos : u.outPos = s.outPos) (hmem : u.outMem = s.outMem) :
      s.outPos.toNat ≤ u.outPos.toNat ∧ u.outPos.toNat ≤ s.outLen.toNat ∧
        ∀ a, a < s.outPos.toNat ∨ u.outPos.toNat ≤ a → u.outMem.read a = s.outMem.read a := by
    rw [hpos, hmem]
    exact ⟨le_rfl, houtPos, fun _ _ => rfl⟩
  cases jobStep_of_step hturn hruns hstep with
  | complete hpoint hout => exact hquiet _ rfl rfl
  | headerShort hpoint hout hin => exact hquiet _ rfl rfl
  | opened hpoint hout hin => exact hquiet _ (by rw [chunkOpened_eq]; rfl) (by rw [chunkOpened_eq]; rfl)
  | chunkEnd hpoint hbound => exact hquiet _ rfl rfl
  | stopped hpoint hbound hr hread =>
    exact hquiet _ hread.outPos hread.outMem
  | @emitted v _ hpoint hbound hread hemits =>
    have hroom := room_in_loop h hphase hpoint hbound
    have hpos : v.outPos = s.outPos := hread.outPos
    have hlen : v.outLen = s.outLen := hread.outLen
    have hmem : v.outMem = s.outMem := hread.outMem
    have hemitted := hemits.room
    have hkept := hemits.kept
    rw [hpos, hlen] at hemitted
    rw [hpos, hmem] at hkept
    obtain ⟨hlt, hle⟩ := hemitted hroom
    exact ⟨hlt.le, hle, fun a ha => hkept a (by omega)⟩

/-- Settles O60: a header read moves `IN_POS` by the 256 bytes that were there, a symbol moves the cursor forward. -/
theorem inputIsReadForwardOnly : Obligations.InputIsReadForwardOnly := by
  intro s t h hturn hruns hstep
  have hinPos := h.inPos hruns.1
  have hread' {v : State} (hread : SymbolRead (afterTurn s) v) :
      s.inPos.toNat ≤ v.inPos.toNat ∧ v.inPos.toNat ≤ s.inLen.toNat :=
    ⟨hread.forward.ahead h.acc, (hread.forward.inside h.acc).trans (max_le hinPos le_rfl)⟩
  cases jobStep_of_step hturn hruns hstep with
  | complete hpoint hout => exact ⟨rfl, rfl, rfl, rfl, le_rfl, hinPos⟩
  | headerShort hpoint hout hin => exact ⟨rfl, rfl, rfl, rfl, le_rfl, hinPos⟩
  | opened hpoint hout hin =>
    have hpos : (chunkOpened (afterTurn s)).inPos.toNat = s.inPos.toNat + 256 := chunkOpened_inPos_toNat hin
    have hin' : 256 ≤ s.inLen.toNat - s.inPos.toNat := hin
    refine ⟨?_, ?_, ?_, ?_, by omega, by omega⟩
    all_goals rw [chunkOpened_eq]; rfl
  | chunkEnd hpoint hbound => exact ⟨rfl, rfl, rfl, rfl, le_rfl, hinPos⟩
  | @stopped v r hpoint hbound hr hread =>
    obtain ⟨hahead, hinside⟩ := hread' hread
    exact ⟨hread.inMem, hread.inLen, hread.outLen, hread.placement, hahead, hinside⟩
  | @emitted v _ hpoint hbound hread hemits =>
    obtain ⟨hahead, hinside⟩ := hread' hread
    rw [hemits.inPos]
    exact ⟨hemits.inMem.trans hread.inMem, hemits.inLen.trans hread.inLen, hemits.outLen.trans hread.outLen,
      hemits.placement.trans hread.placement, hahead, hinside⟩

/-! ### Outside a job (70 R235, 60 R214) -/

/-- Settles O57: of the events, START and reset write the results, and a host write of OUT writes OUT. -/
theorem resultsStayUntilTheNextStart : Obligations.ResultsStayUntilTheNextStart := by
  intro s t hphase hstep hreset hctrl
  rcases coreTurn_or_event s with hturn | ⟨e, rest, hhost, he⟩
  · rw [← Host.Outcome.next.inj ((coreRestsWhenNotBusy s hturn hphase).symm.trans hstep)]
    exact ⟨rfl, rfl, rfl, rfl, rfl, rfl, rfl, fun _ => rfl⟩
  · cases hostEffect_of_step hhost he hstep with
    | answered e v n => exact ⟨rfl, rfl, rfl, rfl, rfl, rfl, rfl, fun _ => rfl⟩
    | ignored => exact ⟨rfl, rfl, rfl, rfl, rfl, rfl, rfl, fun _ => rfl⟩
    | inLenWritten e v hidle => exact ⟨rfl, rfl, rfl, rfl, rfl, rfl, rfl, fun _ => rfl⟩
    | outLenWritten e v hidle => exact ⟨rfl, rfl, rfl, rfl, rfl, rfl, rfl, fun _ => rfl⟩
    | inWritten addr v ha => exact ⟨rfl, rfl, rfl, rfl, rfl, rfl, rfl, fun _ => rfl⟩
    | outWritten addr v ha => exact ⟨rfl, rfl, rfl, rfl, rfl, rfl, rfl, fun hnone => absurd hhost (hnone addr v rest)⟩
    | started bytes hbit hstart => exact absurd (hbit.symm.trans (hctrl _ _ _ hhost)) (by decide)
    | reset => exact absurd hhost (hreset rest)

end Sys2Proof.Proofs

/-! PROOF. Termination on any input (42 R157, 70 R251): every operation of a running job spends output that was outstanding, a
header that was still to read, or the way back from the symbol loop. -/

namespace Sys2Proof.Proofs
open Sys2Proof.Machine Sys2Proof.Laws

/-! ### A machine the host leaves alone -/

theorem afterTurn_of_no_events {s : State} (h : s.host = []) : afterTurn s = s := by
  rw [afterTurn, h, List.tail_nil, ← h]

theorem step_at_rest {s : State} (hhost : s.host = []) (hphase : s.phase ≠ .busy) : step s = .next s := by
  rw [coreRestsWhenNotBusy s (.inl hhost) hphase, afterTurn_of_no_events hhost]

theorem run_at_rest {s : State} (hhost : s.host = []) (hphase : s.phase ≠ .busy) (k : Nat) : run k s = .next s := by
  induction k with
  | zero => rfl
  | succ k ih => rw [run_of_next (step_at_rest hhost hphase), ih]

/-- At rest the machine takes no step that only a running job takes. -/
theorem countSteps_at_rest {p : State → Prop} [DecidablePred p] (hp : ∀ s, p s → jobRuns s) {s : State} (hhost : s.host = [])
    (hphase : s.phase ≠ .busy) (k : Nat) : countSteps p k s = 0 := by
  have hnot : ¬p s := fun h => hphase (hp s h).1
  induction k with
  | zero => rfl
  | succ k ih => rw [countSteps_of_next p (step_at_rest hhost hphase), ih, if_neg hnot]

/-! ### What a running job has left -/

/-- A job runs that the host leaves alone, in a state of the invariant. -/
structure Undisturbed (s : State) : Prop where
  inv : s.Inv
  host : s.host = []
  runs : jobRuns s

/-- The bytes of output outstanding. -/
def outputLeft (s : State) : Nat := s.outLen.toNat - s.outPos.toNat

/-- The headers that the input left can still hold. -/
def headersLeft (s : State) : Nat := (s.inLen.toNat - s.inPos.toNat) / 256

/-- The core's steps that the job can still take: a symbol decode for each byte of output, a chunk pass and a way back for each
header, and the pass that ends the job, with the way to it from inside the loop. -/
def stepsLeft (s : State) : Nat :=
  outputLeft s + 2 * headersLeft s + if s.point = .chunkPass then 1 else 2

/-- The job goes on from `s` to `t` and has less left. -/
structure Spends (s t : State) : Prop where
  runs : jobRuns t
  steps : stepsLeft t < stepsLeft s
  output : outputLeft t ≤ outputLeft s
  decode : s.point = .symbolLoop → s.outPos.toNat - s.chunkStart.toNat < s.chunkBound.toNat → outputLeft t < outputLeft s
  headers : headersLeft t ≤ headersLeft s
  pass : s.point = .chunkPass → headersLeft t < headersLeft s

theorem jobStep_host {s t : State} (hjob : JobStep s t) : t.host = s.host := by
  cases hjob with
  | complete hpoint hout => rfl
  | headerShort hpoint hout hin => rfl
  | opened hpoint hout hin => rw [chunkOpened_eq]
  | chunkEnd hpoint hbound => rfl
  | stopped hpoint hbound hr hread => exact hread.host
  | emitted hpoint hbound hread hemits => exact hemits.host.trans hread.host

theorem spends_chunkOpened {s : State} (h : Undisturbed s) (hpoint : s.point = .chunkPass)
    (hin : 256 ≤ s.inLen.toNat - s.inPos.toNat) : Spends s (chunkOpened s) := by
  have hpos := chunkOpened_inPos_toNat hin
  have hfields : (chunkOpened s).inLen = s.inLen ∧ (chunkOpened s).outLen = s.outLen ∧ (chunkOpened s).outPos = s.outPos ∧
      (chunkOpened s).point = .symbolLoop ∧ jobRuns (chunkOpened s) := by
    rw [chunkOpened_eq]
    exact ⟨rfl, rfl, rfl, rfl, h.runs⟩
  obtain ⟨hinLen, houtLen, houtPos, hpoint', hruns⟩ := hfields
  have hnotLoop : JobPoint.chunkPass ≠ .symbolLoop := by decide
  have houtput : outputLeft (chunkOpened s) = outputLeft s := by rw [outputLeft, houtLen, houtPos, outputLeft]
  have hheaders : headersLeft (chunkOpened s) + 1 = headersLeft s := by
    rw [headersLeft, hinLen, hpos, headersLeft]
    omega
  refine ⟨hruns, ?_, houtput.le, fun hloop => absurd (hpoint.symm.trans hloop) hnotLoop, by omega, fun _ => by omega⟩
  rw [stepsLeft, stepsLeft, hpoint, hpoint', if_neg (by decide), if_pos rfl]
  omega

theorem spends_chunkEnd {s : State} (h : Undisturbed s) (hpoint : s.point = .symbolLoop)
    (hbound : s.chunkBound.toNat ≤ s.outPos.toNat - s.chunkStart.toNat) : Spends s { s with point := .chunkPass } := by
  have hnotPass : JobPoint.symbolLoop ≠ .chunkPass := by decide
  have hsteps : stepsLeft s = outputLeft s + 2 * headersLeft s + 2 := by rw [stepsLeft, hpoint, if_neg hnotPass]
  have hsteps' : stepsLeft { s with point := .chunkPass } = outputLeft s + 2 * headersLeft s + 1 := rfl
  exact ⟨h.runs, by omega, le_rfl, fun _ hbefore => absurd hbefore (Nat.not_lt.2 hbound), le_rfl,
    fun hpass => absurd (hpoint.symm.trans hpass) hnotPass⟩

theorem spends_emits {s v t : State} (h : Undisturbed s) (hpoint : s.point = .symbolLoop)
    (hbound : s.outPos.toNat - s.chunkStart.toNat < s.chunkBound.toNat) (hread : SymbolRead s v) (hemits : Emits v t) :
    Spends s t := by
  have hnotPass : JobPoint.symbolLoop ≠ .chunkPass := by decide
  have hroom := room_in_loop h.inv h.runs.1 hpoint hbound
  have hmoved := hemits.room
  rw [hread.outPos, hread.outLen] at hmoved
  obtain ⟨hlt, hle⟩ := hmoved hroom
  have hahead : s.inPos.toNat ≤ t.inPos.toNat := by
    rw [hemits.inPos]
    exact hread.forward.ahead h.inv.acc
  have houtput : outputLeft t < outputLeft s := by
    rw [outputLeft, hemits.outLen, hread.outLen, outputLeft]
    omega
  have hheaders : headersLeft t ≤ headersLeft s := by
    rw [headersLeft, hemits.inLen, hread.inLen, headersLeft]
    omega
  refine ⟨⟨hemits.phase.trans (hread.phase.trans h.runs.1), hemits.spoiled.trans (hread.spoiled.trans h.runs.2)⟩, ?_,
    houtput.le, fun _ _ => houtput, hheaders, fun hpass => absurd (hpoint.symm.trans hpass) hnotPass⟩
  rw [stepsLeft, stepsLeft, hemits.point, hread.point]
  omega

/-- Each step of the job ends it or spends what it has left. -/
theorem undisturbed_step {s : State} (h : Undisturbed s) :
    ∃ t, step s = .next t ∧ t.Inv ∧ t.host = [] ∧ (t.phase = .done ∨ Spends s t) := by
  obtain ⟨t, hstep, hjob⟩ := jobStep_of_inv h.inv (.inl h.host) h.runs
  rw [afterTurn_of_no_events h.host] at hjob
  refine ⟨t, hstep, everyStepKeepsTheInvariant s t h.inv hstep, (jobStep_host hjob).trans h.host, ?_⟩
  cases hjob with
  | complete hpoint hout => exact .inl rfl
  | headerShort hpoint hout hin => exact .inl rfl
  | opened hpoint hout hin => exact .inr (spends_chunkOpened h hpoint hin)
  | chunkEnd hpoint hbound => exact .inr (spends_chunkEnd h hpoint hbound)
  | stopped hpoint hbound hr hread => exact .inl rfl
  | emitted hpoint hbound hread hemits => exact .inr (spends_emits h hpoint hbound hread hemits)

/-! ### Runs -/

theorem phase_ne_busy_of_done {s : State} (h : s.phase = .done) : s.phase ≠ .busy := by
  rw [h]
  decide

/-- A job ends within the steps it has left. -/
theorem run_ends {k : Nat} {s : State} (h : Undisturbed s) (hk : stepsLeft s ≤ k) :
    ∃ u, run k s = .next u ∧ u.phase = .done ∧ u.Inv := by
  induction k generalizing s with
  | zero =>
    have hpos : 0 < stepsLeft s := by
      rw [stepsLeft]
      split <;> omega
    omega
  | succ k ih =>
    obtain ⟨t, hstep, hinv, hhost, hdone | hspends⟩ := undisturbed_step h
    · exact ⟨t, by rw [run_of_next hstep, run_at_rest hhost (phase_ne_busy_of_done hdone)], hdone, hinv⟩
    · rw [run_of_next hstep]
      have hsteps := hspends.steps
      exact ih ⟨hinv, hhost, hspends.runs⟩ (by omega)

/-- A kind of step that only a running job takes, and of which each spends one of `left`, is taken at most `left` times. -/
theorem countSteps_le {p : State → Prop} [DecidablePred p] {left : State → Nat} (hp : ∀ s, p s → jobRuns s)
    (hpos : ∀ s, Undisturbed s → p s → 0 < left s)
    (hleft : ∀ s t, Undisturbed s → Spends s t → left t ≤ left s ∧ (p s → left t < left s)) (k : Nat) {s : State}
    (h : Undisturbed s) : countSteps p k s ≤ left s := by
  induction k generalizing s with
  | zero => exact Nat.zero_le _
  | succ k ih =>
    obtain ⟨t, hstep, hinv, hhost, hdone | hspends⟩ := undisturbed_step h
    · rw [countSteps_of_next p hstep, countSteps_at_rest hp hhost (phase_ne_busy_of_done hdone)]
      split
      · exact hpos s h ‹_›
      · exact Nat.zero_le _
    · obtain ⟨hle, hlt⟩ := hleft s t h hspends
      have hrest := ih ⟨hinv, hhost, hspends.runs⟩
      rw [countSteps_of_next p hstep]
      split
      · have := hlt ‹_›
        omega
      · omega

theorem countSteps_symbolDecode_le (k : Nat) {s : State} (h : Undisturbed s) : countSteps atSymbolDecode k s ≤ outputLeft s := by
  refine countSteps_le (fun _ hp => hp.2.1) (fun s h hp => ?_) (fun s t _ hspends => ⟨hspends.output, fun hp => ?_⟩) k h
  · obtain ⟨_, hruns, hpoint, hbound⟩ := hp
    exact Nat.sub_pos_of_lt (room_in_loop h.inv hruns.1 hpoint hbound)
  · obtain ⟨_, _, hpoint, hbound⟩ := hp
    exact hspends.decode hpoint hbound

theorem countSteps_chunkPass_le (k : Nat) {s : State} (h : Undisturbed s) : countSteps atChunkPass k s ≤ headersLeft s + 1 :=
  countSteps_le (left := fun s => headersLeft s + 1) (fun _ hp => hp.2.1) (fun _ _ _ => Nat.succ_pos _)
    (fun _ _ _ hspends => ⟨Nat.succ_le_succ hspends.headers, fun hp => Nat.succ_lt_succ (hspends.pass hp.2.2)⟩) k h

/-! ### The job that START begins -/

theorem step_spoiled_undisturbed {s : State} (hhost : s.host = []) (hphase : s.phase = .busy) (hspoiled : s.spoiled = true) :
    step s = .next (jobEndSpoiled s) ∧ (jobEndSpoiled s).host = [] ∧ (jobEndSpoiled s).phase ≠ .busy := by
  refine ⟨?_, hhost, phase_ne_busy_of_done (s := jobEndSpoiled s) rfl⟩
  rw [step_spoiled (.inl hhost) hphase hspoiled, afterTurn_of_no_events hhost]

/-- A spoiled job ends in the core's next turn (log 6). -/
theorem run_spoiled {s : State} (hhost : s.host = []) (hphase : s.phase = .busy) (hspoiled : s.spoiled = true) (k : Nat) :
    run (k + 1) s = .next (jobEndSpoiled s) := by
  obtain ⟨hstep, hhost', hdone⟩ := step_spoiled_undisturbed hhost hphase hspoiled
  rw [run_of_next hstep, run_at_rest hhost' hdone]

/-- A spoiled job takes no step of a job whose contract holds. -/
theorem countSteps_spoiled {p : State → Prop} [DecidablePred p] (hp : ∀ s, p s → jobRuns s) {s : State} (hhost : s.host = [])
    (hphase : s.phase = .busy) (hspoiled : s.spoiled = true) (k : Nat) : countSteps p k s = 0 := by
  have hnot : ¬p s := fun h => absurd ((hp s h).2.symm.trans hspoiled) (by decide)
  cases k with
  | zero => rfl
  | succ k =>
    obtain ⟨hstep, hhost', hdone⟩ := step_spoiled_undisturbed hhost hphase hspoiled
    rw [countSteps_of_next p hstep, if_neg hnot, countSteps_at_rest hp hhost' hdone]

theorem undisturbed_zeroFill {s : State} (h : s.Inv) (hhost : s.host = []) (hapart : storageOverlaps s = false) :
    Undisturbed (zeroFill (beginJob s)) :=
  ⟨inv_zeroFill_beginJob h, hhost, rfl, hapart⟩

theorem left_zeroFill (s : State) :
    outputLeft (zeroFill (beginJob s)) = s.outLen.toNat ∧ headersLeft (zeroFill (beginJob s)) = s.inLen.toNat / 256 ∧
      stepsLeft (zeroFill (beginJob s)) = s.outLen.toNat + 2 * (s.inLen.toNat / 256) + 1 :=
  ⟨rfl, rfl, rfl⟩

/-- Settles O54: START's job has all its output and all its headers left; one on an empty input has ended, and one over
overlapping storage ends in its first step. -/
theorem everyJobTerminates : Obligations.EveryJobTerminates := by
  rintro s t h hphase hhost hstart steps rfl
  have hstate {u : State} (hinv : u.Inv) (hdone : u.phase = .done) : u.state ≠ .busy :=
    fun hbusy => phase_ne_busy_of_done hdone (hinv.busy.2 hbusy)
  have hdecode (s : State) (hp : atSymbolDecode s) : jobRuns s := hp.2.1
  have hpass (s : State) (hp : atChunkPass s) : jobRuns s := hp.2.1
  rw [exec_start] at hstart
  by_cases hin : s.inLen = 0
  · obtain rfl := Host.Outcome.next.inj ((execStart_of_empty hphase hin).symm.trans hstart)
    have hhost' : (jobEnd .invalidInput (beginJob s)).host = [] := hhost
    have hrest : (jobEnd .invalidInput (beginJob s)).phase ≠ .busy := phase_ne_busy_of_done rfl
    rw [run_at_rest hhost' hrest, countSteps_at_rest hdecode hhost' hrest, countSteps_at_rest hpass hhost' hrest]
    exact ⟨⟨_, rfl, rfl, hstate (inv_jobEnd_beginJob h hphase) rfl⟩, Nat.zero_le _, Nat.zero_le _⟩
  · obtain rfl := Host.Outcome.next.inj ((execStart_of_input hphase hin).symm.trans hstart)
    have hinv := inv_zeroFill_beginJob h
    cases hover : storageOverlaps s with
    | false =>
      have hjob := undisturbed_zeroFill h hhost hover
      obtain ⟨houtput, hheaders, hsteps⟩ := left_zeroFill s
      obtain ⟨u, hrun, hdone, hinvu⟩ := run_ends hjob hsteps.le
      exact ⟨⟨u, hrun, hdone, hstate hinvu hdone⟩, (countSteps_symbolDecode_le _ hjob).trans houtput.le,
        (countSteps_chunkPass_le _ hjob).trans (Nat.succ_le_succ hheaders.le)⟩
    | true =>
      have hhost' : (zeroFill (beginJob s)).host = [] := hhost
      rw [run_spoiled hhost' rfl hover, countSteps_spoiled hdecode hhost' rfl hover, countSteps_spoiled hpass hhost' rfl hover]
      exact ⟨⟨_, rfl, rfl, hstate (inv_jobEndSpoiled hinv) rfl⟩, Nat.zero_le _, Nat.zero_le _⟩

end Sys2Proof.Proofs

/-! PROOF. A job's result depends on its input alone (70 R235, 60 R207): two machines that began a job on the same `IN_LEN`, `OUT_LEN`
and bytes of IN go on in lockstep. What an earlier job left in the other registers is written before it is read. -/

namespace Sys2Proof.Proofs
open Sys2Proof.Machine Sys2Proof.Laws

/-! ### What two machines have in common -/

/-- Two machines run the same job, at the same place in it. -/
structure SameJob (s s' : State) : Prop where
  hosts : s.host = [] ∧ s'.host = []
  runs : jobRuns s ∧ jobRuns s'
  point : s.point = s'.point
  inLen : s.inLen = s'.inLen
  outLen : s.outLen = s'.outLen
  inPos : s.inPos = s'.inPos
  outPos : s.outPos = s'.outPos
  nhdr : s.nhdr = s'.nhdr
  fallback : s.fallback = s'.fallback
  input : ∀ a, a < s.inLen.toNat → s.inMem.read a = s'.inMem.read a
  output : ∀ a, a < s.outLen.toNat → s.outMem.read a = s'.outMem.read a

/-- In the symbol loop they have the accumulator, the chunk and the table in common too. -/
structure SameLoop (s s' : State) : Prop extends SameJob s s' where
  acc : s.acc = s'.acc
  cnt : s.cnt = s'.cnt
  chunkStart : s.chunkStart = s'.chunkStart
  chunkBound : s.chunkBound = s'.chunkBound
  table : ∀ i, i < 32768 → s.tab.read i = s'.tab.read i

/-- Two machines whose jobs have ended show the same results. -/
structure SameResult (s s' : State) : Prop where
  hosts : s.host = [] ∧ s'.host = []
  done : s.phase = .done ∧ s'.phase = .done
  state : s.state = s'.state
  stopReason : s.stopReason = s'.stopReason
  invalidCodeSeen : s.invalidCodeSeen = s'.invalidCodeSeen
  produced : s.produced = s'.produced
  consumed : s.consumed = s'.consumed
  chunks : s.chunks = s'.chunks
  outLen : s.outLen = s'.outLen
  output : ∀ a, a < s.outLen.toNat → s.outMem.read a = s'.outMem.read a

/-- The relation that every step of the two machines keeps. -/
def Lockstep (s s' : State) : Prop :=
  (SameJob s s' ∧ (s.point = .symbolLoop → SameLoop s s')) ∨ SameResult s s'

theorem lockstep_of_sameLoop {s s' : State} (h : SameLoop s s') : Lockstep s s' := .inl ⟨h.toSameJob, fun _ => h⟩

theorem sameResult_jobEnd {s s' : State} (h : SameJob s s') (r : StopReason) : SameResult (jobEnd r s) (jobEnd r s') where
  hosts := h.hosts
  done := ⟨rfl, rfl⟩
  state := rfl
  stopReason := rfl
  invalidCodeSeen := h.fallback
  produced := h.outPos
  consumed := h.inPos
  chunks := h.nhdr
  outLen := h.outLen
  output := h.output

theorem lockstep_jobEnd {s s' : State} (h : SameJob s s') (r : StopReason) : Lockstep (jobEnd r s) (jobEnd r s') :=
  .inr (sameResult_jobEnd h r)

/-! ### The stream -/

theorem inRead_congr {s s' : State} (h : SameJob s s') {a : Nat} (ha : a < s.inLen.toNat) : inRead s a = inRead s' a :=
  h.input a ha

theorem sameLoop_pullByte {s s' : State} (h : SameLoop s s') (hin : s.inPos.toNat < s.inLen.toNat) :
    SameLoop (pullByte s) (pullByte s') :=
  have hbyte : inRead s s.inPos.toNat = inRead s' s'.inPos.toNat := by rw [inRead_congr h.toSameJob hin, h.inPos]
  { h with
    inPos := by rw [pullByte_inPos, pullByte_inPos, h.inPos]
    acc := by rw [pullByte_acc, pullByte_acc, hbyte, h.acc, h.cnt]
    cnt := by rw [pullByte_cnt, pullByte_cnt, h.cnt] }

theorem sameLoop_pullBytes {k : Nat} {s s' : State} (h : SameLoop s s') (hk : s.inPos.toNat + k ≤ s.inLen.toNat) :
    SameLoop (pullBytes k s) (pullBytes k s') := by
  induction k generalizing s s' with
  | zero => exact h
  | succ k ih =>
    have hpos := pullByte_inPos_toNat (s := s) (by omega)
    exact ih (sameLoop_pullByte h (by omega)) (by rw [hpos, pullByte_inLen]; omega)

/-- FILL fails in both machines or in neither. -/
theorem sameLoop_fill (n : Nat) {s s' : State} (h : SameLoop s s') :
    (fill n s = none ∧ fill n s' = none) ∨
      ∃ t t', fill n s = some t ∧ fill n s' = some t' ∧ SameLoop t t' := by
  unfold fill
  rw [← h.cnt, ← h.inLen, ← h.inPos]
  by_cases henough : n ≤ s.cnt.toNat
  · exact .inr ⟨s, s', if_pos henough, if_pos henough, h⟩
  · rw [if_neg henough, if_neg henough]
    dsimp only
    by_cases hshort : s.inLen.toNat - s.inPos.toNat < (n - s.cnt.toNat + 7) / 8
    · exact .inl ⟨if_pos hshort, if_pos hshort⟩
    · exact .inr ⟨_, _, if_neg hshort, if_neg hshort, sameLoop_pullBytes h (by omega)⟩

theorem peek_congr {s s' : State} (h : SameLoop s s') (n : Nat) : peek n s = peek n s' := by
  rw [peek, peek, h.acc]

theorem sameLoop_consume (n : Nat) {s s' : State} (h : SameLoop s s') : SameLoop (consume n s) (consume n s') :=
  { h with
    acc := by rw [consume_acc, consume_acc, h.acc]
    cnt := by rw [consume_cnt, consume_cnt, h.cnt] }

/-- Two operand reads that stop alike, or give the same value. -/
inductive SameOperand {α : Type} : Operand α → Operand α → Prop
  | value (v : α) {t t' : State} (h : SameLoop t t') : SameOperand (.value v t) (.value v t')
  | stopped (r : StopReason) {t t' : State} (h : SameLoop t t') : SameOperand (.stopped r t) (.stopped r t')

theorem sameOperand_readField (n : Nat) (r : StopReason) {s s' : State} (h : SameLoop s s') :
    SameOperand (readField n r s) (readField n r s') := by
  rcases sameLoop_fill n h with ⟨hfill, hfill'⟩ | ⟨t, t', hfill, hfill', ht⟩
  · rw [readField_of_fill_eq_none hfill, readField_of_fill_eq_none hfill']
    exact .stopped r h
  · rw [readField, readField, hfill, hfill']
    dsimp only
    rw [peek_congr ht]
    exact .value _ (sameLoop_consume n ht)

theorem sameOperand_offsetOperand (oh : BitVec 3) {s s' : State} (h : SameLoop s s') :
    SameOperand (offsetOperand oh s) (offsetOperand oh s') := by
  by_cases hoh : oh = 0
  · rw [offsetOperand, offsetOperand, if_pos hoh, if_pos hoh]
    exact .value 0 h
  · rw [offsetOperand, offsetOperand, if_neg hoh, if_neg hoh]
    have hfield := sameOperand_readField oh.toNat .bitsOffset h
    generalize readField oh.toNat .bitsOffset s = o at hfield ⊢
    generalize readField oh.toNat .bitsOffset s' = o' at hfield ⊢
    cases hfield with
    | value x ht => exact .value _ ht
    | stopped r ht => exact .stopped r ht

theorem sameOperand_extendedLength {s s' : State} (h : SameLoop s s') :
    SameOperand (extendedLength s) (extendedLength s') := by
  rw [extendedLength, extendedLength]
  have hfield := sameOperand_readField 8 .bitsLen8 h
  generalize readField 8 .bitsLen8 s = o at hfield ⊢
  generalize readField 8 .bitsLen8 s' = o' at hfield ⊢
  cases hfield with
  | stopped r ht => exact .stopped r ht
  | @value v8 t t' ht =>
    by_cases hlow : v8.toNat < Config.ext8Esc
    · simp only [if_pos hlow]
      exact .value _ ht
    · simp only [if_neg hlow]
      have hfield16 := sameOperand_readField 16 .bitsLen16 ht
      generalize readField 16 .bitsLen16 t = o at hfield16 ⊢
      generalize readField 16 .bitsLen16 t' = o' at hfield16 ⊢
      cases hfield16 with
      | value v16 hu => exact .value _ hu
      | stopped r hu => exact .stopped r hu

/-! ### Back-references -/

/-- A copied byte comes from OUT below the write position, so outputs that agree below `OUT_LEN` still do. -/
theorem copiedByte_congr {out out' : Memory 8} {dst dist n len : Nat} (hpos : 1 ≤ dist) (hsrc : dist ≤ dst)
    (h : ∀ a, a < len → out.read a = out'.read a) {a : Nat} (ha : a < len) :
    copiedByte out dst dist n a = copiedByte out' dst dist n a := by
  have hmod := Nat.mod_lt (a - dst) hpos
  rw [copiedByte, copiedByte]
  split
  · exact h _ (by omega)
  · exact h a ha

theorem lockstep_copyMatch {s s' : State} (h : SameLoop s s') (hmlen : s.mlen = s'.mlen) (hoffset : s.offset = s'.offset) :
    Lockstep (copyMatch s) (copyMatch s') := by
  have hcount : copyCount s' s'.mlen.toNat = copyCount s s.mlen.toNat := by
    rw [copyCount, copyCount, ← hmlen, ← h.outLen, ← h.outPos]
  rcases copyMatch_spec s with ⟨hbefore, hstop⟩ | ⟨hsrc, hcopy, hread, _⟩
  · have hstop' := copyMatch_of_before (v := s') (by rwa [← h.outPos, ← hoffset])
    rw [hstop, hstop']
    exact lockstep_jobEnd h.toSameJob _
  · rcases copyMatch_spec s' with ⟨hbefore', _⟩ | ⟨_, hcopy', hread', _⟩
    · rw [← h.outPos, ← hoffset] at hbefore'
      omega
    · have houtput (a : Nat) (ha : a < s.outLen.toNat) : (copyMatch s).outMem.read a = (copyMatch s').outMem.read a := by
        rw [hread, hread', hcount, ← hoffset, ← h.outPos]
        exact copiedByte_congr (by omega) hsrc h.output ha
      rw [hcount, ← h.outPos] at hcopy'
      rw [hcopy, hcopy']
      exact lockstep_of_sameLoop { h with outPos := rfl, output := houtput }

theorem lockstep_copyAfterLength (oh : BitVec 3) (len : Nat) {s s' : State} (h : SameLoop s s') :
    Lockstep (copyAfterLength oh len s) (copyAfterLength oh len s') := by
  have hmarked : SameLoop { s with mlen := BitVec.ofNat 17 len } { s' with mlen := BitVec.ofNat 17 len } := { h with }
  have hoperand := sameOperand_offsetOperand oh hmarked
  have hframe := offsetOperand_cases oh { s with mlen := BitVec.ofNat 17 len }
  have hframe' := offsetOperand_cases oh { s' with mlen := BitVec.ofNat 17 len }
  rw [copyAfterLength, copyAfterLength, offsetAndCopy, offsetAndCopy]
  generalize offsetOperand oh { s with mlen := BitVec.ofNat 17 len } = o at hoperand hframe ⊢
  generalize offsetOperand oh { s' with mlen := BitVec.ofNat 17 len } = o' at hoperand hframe' ⊢
  cases hoperand with
  | stopped r ht => exact lockstep_jobEnd ht.toSameJob r
  | @value off t t' ht =>
    have hmlen : t.mlen = BitVec.ofNat 17 len := by
      rcases hframe with hstop | ⟨_, u, hvalue, hsame, _⟩
      · exact absurd hstop (by simp)
      · rw [(Operand.value.inj hvalue).2, hsame]
    have hmlen' : t'.mlen = BitVec.ofNat 17 len := by
      rcases hframe' with hstop | ⟨_, u, hvalue, hsame, _⟩
      · exact absurd hstop (by simp)
      · rw [(Operand.value.inj hvalue).2, hsame]
    exact lockstep_copyMatch (s := { t with offset := BitVec.ofNat 8 off }) (s' := { t' with offset := BitVec.ofNat 8 off })
      { ht with } (hmlen.trans hmlen'.symm) rfl

theorem lockstep_extendedMatch (oh : BitVec 3) {s s' : State} (h : SameLoop s s') :
    Lockstep (extendedMatch oh s) (extendedMatch oh s') := by
  have hlength := sameOperand_extendedLength h
  rw [extendedMatch, extendedMatch]
  generalize extendedLength s = o at hlength ⊢
  generalize extendedLength s' = o' at hlength ⊢
  cases hlength with
  | stopped r ht => exact lockstep_jobEnd ht.toSameJob r
  | value len ht => exact lockstep_copyAfterLength oh len ht

/-! ### The symbol loop -/

theorem sameLoop_emitByte (b : BitVec 8) {s s' : State} (h : SameLoop s s') : SameLoop (emitByte b s) (emitByte b s') :=
  { h with
    outPos := by rw [emitByte_outPos, emitByte_outPos, h.outPos]
    output := fun a ha => by rw [emitByte_read, emitByte_read, h.outPos, h.output a ha] }

theorem lockstep_literalStep (b : BitVec 8) {s s' t t' : State} (h : SameLoop s s') (hstep : literalStep b s = .next t)
    (hstep' : literalStep b s' = .next t') : Lockstep t t' := by
  rcases Nat.lt_or_ge s.outPos.toNat s.outLen.toNat with hroom | hfull
  · have hroom' : s'.outPos.toNat < s'.outLen.toNat := by rwa [← h.outPos, ← h.outLen]
    rw [← Host.Outcome.next.inj ((literalStep_of_room b hroom).symm.trans hstep),
      ← Host.Outcome.next.inj ((literalStep_of_room b hroom').symm.trans hstep')]
    exact lockstep_of_sameLoop (sameLoop_emitByte b h)
  · exact absurd ((literalStep_of_full b hfull).symm.trans hstep) (by simp)

/-- The two machines run an instruction of the stream alike. -/
theorem lockstep_exec {i : Instr} (hi : i ≠ .start) {s s' t t' : State} (h : SameLoop s s') (hexec : exec i s = .next t)
    (hexec' : exec i s' = .next t') : Lockstep t t' := by
  rcases instr_kinds i with rfl | rfl | ⟨b, rfl⟩ | ⟨form, oh, hform⟩
  · exact absurd rfl hi
  · have hmarked : SameLoop (markUnassigned s) (markUnassigned s') := { h with fallback := rfl }
    exact lockstep_literalStep 0 (sameLoop_consume 15 hmarked) hexec hexec'
  · exact lockstep_literalStep b h hexec hexec'
  · cases form with
    | short lenSlot =>
      rw [← Host.Outcome.next.inj ((exec_of_short hform s).1.symm.trans hexec),
        ← Host.Outcome.next.inj ((exec_of_short hform s').1.symm.trans hexec')]
      exact lockstep_copyAfterLength oh (lenSlot + 3) h
    | extended =>
      rw [← Host.Outcome.next.inj ((exec_of_extended hform s).symm.trans hexec),
        ← Host.Outcome.next.inj ((exec_of_extended hform s').symm.trans hexec')]
      exact lockstep_extendedMatch oh h

theorem entry_congr {s s' : State} (h : SameLoop s s') :
    tabRead s (peek 15 s).toNat = tabRead s' (peek 15 s').toNat := by
  rw [← peek_congr h]
  exact h.table _ (peek 15 s).isLt

theorem sameLoop_lookUp {s s' : State} (h : SameLoop s s') : SameLoop (lookUp s) (lookUp s') := { h with }

theorem lockstep_symbolLoop {s s' t t' : State} (h : SameLoop s s') (hpoint : s.point = .symbolLoop) (hstep : step s = .next t)
    (hstep' : step s' = .next t') : Lockstep t t' := by
  have hturn : coreTurn s := .inl h.hosts.1
  have hturn' : coreTurn s' := .inl h.hosts.2
  obtain ⟨hruns, hruns'⟩ := h.runs
  have hpoint' : s'.point = .symbolLoop := h.point.symm.trans hpoint
  have hafter := afterTurn_of_no_events h.hosts.1
  have hafter' := afterTurn_of_no_events h.hosts.2
  rcases Nat.lt_or_ge (s.outPos.toNat - s.chunkStart.toNat) s.chunkBound.toNat with hbound | hbound
  · have hbound' : s'.outPos.toNat - s'.chunkStart.toNat < s'.chunkBound.toNat := by
      rwa [← h.outPos, ← h.chunkStart, ← h.chunkBound]
    rcases sameLoop_fill 15 h with ⟨hfill, hfill'⟩ | ⟨u, u', hfill, hfill', hu⟩
    · rw [← hafter] at hfill
      rw [← hafter'] at hfill'
      rw [← Host.Outcome.next.inj ((step_symbolLoop_of_short hturn hruns hpoint hbound hfill).symm.trans hstep),
        ← Host.Outcome.next.inj ((step_symbolLoop_of_short hturn' hruns' hpoint' hbound' hfill').symm.trans hstep'),
        hafter, hafter']
      exact lockstep_jobEnd h.toSameJob _
    · rw [← hafter] at hfill
      rw [← hafter'] at hfill'
      obtain ⟨hunassigned, hother⟩ := step_window hturn hruns hpoint hbound hfill
      obtain ⟨hunassigned', hother'⟩ := step_window hturn' hruns' hpoint' hbound' hfill'
      rw [lookUp_clen, ← entry_congr hu] at hother'
      rw [← entry_congr hu] at hunassigned'
      rw [lookUp_clen] at hother
      by_cases hentry : decodeEntry (tabRead u (peek 15 u).toNat) = .unassigned
      · exact lockstep_exec (by decide) (sameLoop_lookUp hu) ((hunassigned hentry).symm.trans hstep)
          ((hunassigned' hentry).symm.trans hstep')
      · exact lockstep_exec (decodeEntry_ne_start _) (sameLoop_consume _ (sameLoop_lookUp hu))
          ((hother hentry).symm.trans hstep) ((hother' hentry).symm.trans hstep')
  · have hbound' : s'.chunkBound.toNat ≤ s'.outPos.toNat - s'.chunkStart.toNat := by
      rwa [← h.outPos, ← h.chunkStart, ← h.chunkBound]
    rw [← Host.Outcome.next.inj ((step_chunkEnd hturn hruns hpoint hbound).symm.trans hstep),
      ← Host.Outcome.next.inj ((step_chunkEnd hturn' hruns' hpoint' hbound').symm.trans hstep'), hafter, hafter']
    exact lockstep_of_sameLoop { h with point := rfl }

/-! ### The chunk pass -/

/-- Both machines read the same header, so BUILD makes the same table in both, whatever stood there (40 R110). -/
theorem sameLoop_chunkOpened {s s' : State} (h : SameJob s s') (hin : 256 ≤ s.inLen.toNat - s.inPos.toNat) :
    SameLoop (chunkOpened s) (chunkOpened s') := by
  have hlengths (sym : Nat) (hsym : sym < 512) : (readHeader s).lengths.read sym = (readHeader s').lengths.read sym := by
    rw [readHeader_lengths, readHeader_lengths, if_pos hsym, if_pos hsym, ← h.inPos, inRead_congr h (by omega)]
  have htable := (buildIsPure (readHeader s) (readHeader s') hlengths).1
  rw [chunkOpened_eq, chunkOpened_eq]
  generalize build (readHeader s) = built at htable ⊢
  generalize build (readHeader s') = built' at htable ⊢
  generalize readHeader s = header
  generalize readHeader s' = header'
  exact { h with
    point := rfl
    inPos := congrArg (· + 256) h.inPos
    nhdr := congrArg (· + 1) h.nhdr
    acc := rfl
    cnt := rfl
    chunkStart := h.outPos
    chunkBound := by rw [h.outLen, h.outPos]
    table := htable }

theorem lockstep_chunkPass {s s' : State} (h : SameJob s s') : Lockstep (chunkPass s) (chunkPass s') := by
  rcases Nat.lt_or_ge s.outPos.toNat s.outLen.toNat with hout | hout
  · have hout' : s'.outPos.toNat < s'.outLen.toNat := by rwa [← h.outPos, ← h.outLen]
    rcases Nat.lt_or_ge (s.inLen.toNat - s.inPos.toNat) 256 with hin | hin
    · rw [chunkPass_short hout hin, chunkPass_short hout' (by rwa [← h.inLen, ← h.inPos])]
      exact lockstep_jobEnd h _
    · rw [chunkPass_open hout hin, chunkPass_open hout' (by rwa [← h.inLen, ← h.inPos])]
      exact lockstep_of_sameLoop (sameLoop_chunkOpened h hin)
  · rw [chunkPass_full hout, chunkPass_full (by rwa [← h.outPos, ← h.outLen])]
    exact lockstep_jobEnd h _

/-! ### Steps and runs -/

theorem jobStep_outLen {s t : State} (hjob : JobStep s t) : t.outLen = s.outLen := by
  cases hjob with
  | complete hpoint hout => rfl
  | headerShort hpoint hout hin => rfl
  | opened hpoint hout hin => rw [chunkOpened_eq]
  | chunkEnd hpoint hbound => rfl
  | stopped hpoint hbound hr hread => exact hread.outLen
  | emitted hpoint hbound hread hemits => exact hemits.outLen.trans hread.outLen

theorem lockstep_step {s s' t t' : State} (h : Lockstep s s') (hstep : step s = .next t) (hstep' : step s' = .next t') :
    Lockstep t t' := by
  rcases h with ⟨hjob, hloop⟩ | hresult
  · cases hpoint : s.point with
    | symbolLoop => exact lockstep_symbolLoop (hloop hpoint) hpoint hstep hstep'
    | chunkPass =>
      have hpass := step_chunkPass (.inl hjob.hosts.1) hjob.runs.1 hpoint
      have hpass' := step_chunkPass (.inl hjob.hosts.2) hjob.runs.2 (hjob.point.symm.trans hpoint)
      rw [afterTurn_of_no_events hjob.hosts.1] at hpass
      rw [afterTurn_of_no_events hjob.hosts.2] at hpass'
      rw [← Host.Outcome.next.inj (hpass.symm.trans hstep), ← Host.Outcome.next.inj (hpass'.symm.trans hstep')]
      exact lockstep_chunkPass hjob
  · have hrest := step_at_rest hresult.hosts.1 (phase_ne_busy_of_done hresult.done.1)
    have hrest' := step_at_rest hresult.hosts.2 (phase_ne_busy_of_done hresult.done.2)
    rw [← Host.Outcome.next.inj (hrest.symm.trans hstep), ← Host.Outcome.next.inj (hrest'.symm.trans hstep')]
    exact .inr hresult

theorem step_of_run_succ {k : Nat} {s u : State} (h : run (k + 1) s = .next u) : ∃ t, step s = .next t ∧ run k t = .next u := by
  cases hstep : step s with
  | next t => exact ⟨t, rfl, by rwa [run_of_next hstep] at h⟩
  | fault f =>
    rw [run, hstep] at h
    exact absurd h (by simp)
  | refused r =>
    rw [run, hstep] at h
    exact absurd h (by simp)

theorem lockstep_run {k : Nat} {s s' u u' : State} (h : Lockstep s s') (hrun : run k s = .next u)
    (hrun' : run k s' = .next u') : Lockstep u u' := by
  induction k generalizing s s' with
  | zero => rwa [← Host.Outcome.next.inj hrun, ← Host.Outcome.next.inj hrun']
  | succ k ih =>
    obtain ⟨t, hstep, hrest⟩ := step_of_run_succ hrun
    obtain ⟨t', hstep', hrest'⟩ := step_of_run_succ hrun'
    exact ih (lockstep_step h hstep hstep') hrest hrest'

/-- `OUT_LEN` is the host's to write: the core alone leaves it (20 R68). -/
theorem step_keeps_outLen {s t : State} (hhost : s.host = []) (hstep : step s = .next t) :
    t.outLen = s.outLen ∧ t.host = [] := by
  have hturn : coreTurn s := .inl hhost
  have hafter := afterTurn_of_no_events hhost
  by_cases hphase : s.phase = .busy
  · cases hspoiled : s.spoiled with
    | true =>
      rw [← Host.Outcome.next.inj ((step_spoiled hturn hphase hspoiled).symm.trans hstep), hafter]
      exact ⟨rfl, hhost⟩
    | false =>
      have hjob := jobStep_of_step hturn ⟨hphase, hspoiled⟩ hstep
      rw [hafter] at hjob
      exact ⟨jobStep_outLen hjob, (jobStep_host hjob).trans hhost⟩
  · rw [← Host.Outcome.next.inj ((step_at_rest hhost hphase).symm.trans hstep)]
    exact ⟨rfl, hhost⟩

theorem run_keeps_outLen {k : Nat} {s u : State} (hhost : s.host = []) (hrun : run k s = .next u) : u.outLen = s.outLen := by
  induction k generalizing s with
  | zero => rw [← Host.Outcome.next.inj hrun]
  | succ k ih =>
    obtain ⟨t, hstep, hrest⟩ := step_of_run_succ hrun
    obtain ⟨hlen, hhost'⟩ := step_keeps_outLen hhost hstep
    rw [ih hhost' hrest, hlen]

theorem sameJob_zeroFill {s s' : State} (hhost : s.host = []) (hhost' : s'.host = []) (hin : s.inLen = s'.inLen)
    (hout : s.outLen = s'.outLen) (hinput : ∀ a, a < s.inLen.toNat → s.inMem.read a = s'.inMem.read a)
    (hapart : storageOverlaps s = false) (hapart' : storageOverlaps s' = false) :
    SameJob (zeroFill (beginJob s)) (zeroFill (beginJob s')) where
  hosts := ⟨hhost, hhost'⟩
  runs := ⟨⟨rfl, hapart⟩, ⟨rfl, hapart'⟩⟩
  point := rfl
  inLen := hin
  outLen := hout
  inPos := rfl
  outPos := rfl
  nhdr := rfl
  fallback := rfl
  input := hinput
  output a ha := by
    have ha : a < s.outLen.toNat := ha
    have hzero : (s.outMem.clearBelow s.outLen.toNat).read a = 0 := by rw [read_clearBelow, if_pos ha]
    have hzero' : (s'.outMem.clearBelow s'.outLen.toNat).read a = 0 := by rw [read_clearBelow, ← hout, if_pos ha]
    exact hzero.trans hzero'.symm

/-- Settles O55: START puts both machines in lockstep, whatever they held, and every step keeps them there. -/
theorem jobResultDependsOnTheInputAlone : Obligations.JobResultDependsOnTheInputAlone := by
  intro s s' t t' u u' k hphase hphase' hhost hhost' hne hin hout hinput hapart hapart' hstart hstart' hrun hrun'
  rw [exec_start] at hstart hstart'
  obtain rfl := Host.Outcome.next.inj ((execStart_of_input hphase hne).symm.trans hstart)
  obtain rfl := Host.Outcome.next.inj ((execStart_of_input hphase' (hin ▸ hne)).symm.trans hstart')
  have hjob := sameJob_zeroFill hhost hhost' hin hout hinput hapart hapart'
  have hnotLoop : JobPoint.chunkPass ≠ .symbolLoop := by decide
  have hlock : Lockstep (zeroFill (beginJob s)) (zeroFill (beginJob s')) := .inl ⟨hjob, fun h => absurd h hnotLoop⟩
  rcases lockstep_run hlock hrun hrun' with ⟨hsame, _⟩ | hresult
  · obtain ⟨hruns, hruns'⟩ := hsame.runs
    exact ⟨hruns.1.trans hruns'.1.symm, fun hdone => absurd hruns.1 (phase_ne_busy_of_done hdone)⟩
  · refine ⟨hresult.done.1.trans hresult.done.2.symm, fun _ => ⟨?_, hresult.produced, hresult.consumed, hresult.chunks, ?_⟩⟩
    · rw [statusWord, statusWord, hresult.state, hresult.stopReason, hresult.invalidCodeSeen]
    · have hlen : u.outLen = s.outLen := run_keeps_outLen (s := zeroFill (beginJob s)) hhost hrun
      rw [← hlen]
      exact hresult.output

end Sys2Proof.Proofs
